-- ==== Sys2Proof/Word.lean ====
section
/-! DEFINITION. The two word widths of the KPE and the plainest reading of a word (rules R3, R10, R11 of 00_scope.md). -/

namespace Sys2Proof

/-- The width parameter W of one KPE (R3): 32 or 64, and no other. -/
inductive Width where
  | w32
  | w64
  deriving DecidableEq, Repr

/-- W as a number of bits (R3). -/
def Width.bits : Width → Nat
  | .w32 => 32
  | .w64 => 64

/-- ONES, the all-ones word 2^W - 1 (R11). -/
abbrev ones (w : Nat) : BitVec w := BitVec.allOnes w

/-- The two's-complement reading `signed(v)` of a word (R10). -/
abbrev signed {w : Nat} (v : BitVec w) : Int := v.toInt

end Sys2Proof
end

