-- ==== Sys2Proof/Config.lean ====
section
/-! DEFINITION. What one KPE fixes at build time (rules R8 and R9 of 00_scope.md), the reference values the spec gives,
and the model's one free value. -/

namespace Sys2Proof.Config

/-- The parameters of one KPE (R8, R9). They are configuration and no step changes them; `State` carries them because
the host's interface has one state type for every width (log 1, DESIGN CHOICE). -/
structure Params where
  /-- W (R3). -/
  width : Width
  /-- R_MAX, the depth of each key RAM and the largest accepted round count (R8). -/
  rMax : Nat
  /-- KPE_BASE, the byte address of register 0 on the host bus (R8, R60). -/
  base : Nat
  /-- C_RESET (R8). -/
  cReset : BitVec width.bits
  /-- C1_RESET (R8). -/
  c1Reset : BitVec width.bits
  /-- C2_RESET (R8). -/
  c2Reset : BitVec width.bits
  /-- S1, the first FullWord xor-shift amount, XSHIFT[7:0] (R34). -/
  s1 : BitVec 8
  /-- S2, XSHIFT[15:8] (R34). -/
  s2 : BitVec 8
  /-- S3, XSHIFT[23:16] (R34). -/
  s3 : BitVec 8
  deriving DecidableEq, Repr

/-- W of an instance, in bits. -/
abbrev Params.w (p : Params) : Nat := p.width.bits

/-- A register, key, argument or result of an instance (R3, R10). -/
abbrev Params.Word (p : Params) : Type := BitVec p.w

/-- W / 8, the bytes of one register (R60). -/
def Params.wordBytes (p : Params) : Nat := p.w / 8

/-- The bounds R8 and R33 put on the parameters: 6 <= R_MAX <= 65535, KPE_BASE aligned to W/8, odd multipliers, the
FullWord shifts 30, 27, 31 for W = 64 and invertible ones, below W, for W = 32 (log 12). -/
structure Params.Wf (p : Params) : Prop where
  rMax_ge : 6 ≤ p.rMax
  rMax_le : p.rMax ≤ 65535
  base_aligned : p.base % p.wordBytes = 0
  c_odd : p.cReset.getLsbD 0 = true
  c1_odd : p.c1Reset.getLsbD 0 = true
  c2_odd : p.c2Reset.getLsbD 0 = true
  shifts64 : p.width = .w64 → p.s1 = 30 ∧ p.s2 = 27 ∧ p.s3 = 31
  shifts32 : p.width = .w32 →
    (1 ≤ p.s1.toNat ∧ p.s1.toNat < 32) ∧ (1 ≤ p.s2.toNat ∧ p.s2.toNat < 32) ∧ (1 ≤ p.s3.toNat ∧ p.s3.toNat < 32)

/-- The W = 64 instance with the reference values of R8. -/
def reference64 : Params where
  width := .w64
  rMax := 64
  base := 0
  cReset := 0x9E3779B185EBCA87#64
  c1Reset := 0xC2B2AE3D27D4EB4F#64
  c2Reset := 0x165667B19E3779F9#64
  s1 := 30
  s2 := 27
  s3 := 31

/-- The W = 32 instance with the reference values of R8. -/
def reference32 : Params where
  width := .w32
  rMax := 64
  base := 0
  cReset := 0x9E3779B1#32
  c1Reset := 0x85EBCA77#32
  c2Reset := 0xC2B2AE3D#32
  s1 := 13
  s2 := 17
  s3 := 5

/-- A RAM entry at an index the RAM does not have (log 5): a free value, about which nothing can be proved. The rules read
no such entry (R36, R37); only a state that no run reaches leads here. -/
opaque absentEntry (w index : Nat) : BitVec w

end Sys2Proof.Config
end

