-- ==== Sys2Proof/Syntax.lean ====
section
/-! DEFINITION. The commands of the KPE: one constructor per row of spec/opcode_table.json (rules R82, R83, R89 of
30_encoding.md). Every data operand travels in ARG0 to ARG2 (R80), so a command carries at most an index. -/

namespace Sys2Proof

/-- A KPE command (R82). `idx` is the 16-bit RAM index of the word's IDX field (R85). -/
inductive Instr where
  | nop
  | cfg
  | mulwrC
  | mulwrC1
  | mulwrC2
  | keywrK1 (idx : Nat)
  | keywrK2 (idx : Nat)
  | keyrdK1 (idx : Nat)
  | keyrdK2 (idx : Nat)
  | tblwr (idx : Nat)
  | tblrdFwd (idx : Nat)
  | tblrdInv (idx : Nat)
  | arm
  | encU
  | encC
  | decU
  | decC
  | itstart
  | itnext
  | block
  | invodd
  | invxs
  | srst
  deriving DecidableEq, Repr

/-- The IDX operand of a command, 0 where it has none (R83: an unused field is 0). -/
def Instr.idx : Instr → Nat
  | .keywrK1 i | .keywrK2 i | .keyrdK1 i | .keyrdK2 i | .tblwr i | .tblrdFwd i | .tblrdInv i => i
  | .nop | .cfg | .mulwrC | .mulwrC1 | .mulwrC2 | .arm | .encU | .encC | .decU | .decC | .itstart | .itnext
  | .block | .invodd | .invxs | .srst => 0

/-- The mnemonic of a command (R89), as spec/opcode_table.json spells it. -/
def Instr.mnemonic : Instr → String
  | .nop => "NOP"
  | .cfg => "CFG"
  | .mulwrC => "MULWR.C"
  | .mulwrC1 => "MULWR.C1"
  | .mulwrC2 => "MULWR.C2"
  | .keywrK1 _ => "KEYWR.K1"
  | .keywrK2 _ => "KEYWR.K2"
  | .keyrdK1 _ => "KEYRD.K1"
  | .keyrdK2 _ => "KEYRD.K2"
  | .tblwr _ => "TBLWR"
  | .tblrdFwd _ => "TBLRD.FWD"
  | .tblrdInv _ => "TBLRD.INV"
  | .arm => "ARM"
  | .encU => "ENC.U"
  | .encC => "ENC.C"
  | .decU => "DEC.U"
  | .decC => "DEC.C"
  | .itstart => "ITSTART"
  | .itnext => "ITNEXT"
  | .block => "BLOCK"
  | .invodd => "INVODD"
  | .invxs => "INVXS"
  | .srst => "SRST"

/-- Whether the assembler writes an index after the mnemonic (R89). -/
def Instr.takesIdx : Instr → Bool
  | .keywrK1 _ | .keywrK2 _ | .keyrdK1 _ | .keyrdK2 _ | .tblwr _ | .tblrdFwd _ | .tblrdInv _ => true
  | .nop | .cfg | .mulwrC | .mulwrC1 | .mulwrC2 | .arm | .encU | .encC | .decU | .decC | .itstart | .itnext
  | .block | .invodd | .invxs | .srst => false

end Sys2Proof
end

