-- ==== Sys2Proof/WellFormed.lean ====
section
/-! DEFINITION. What makes a command writable: the bound of R89 and R85 of 30_encoding.md on its index. -/

namespace Sys2Proof

/-- A command is well formed when its index fits the 16-bit IDX field: R89's "number in 0..65535". -/
def Instr.wellFormed (i : Instr) : Bool := decide (i.idx < 65536)

end Sys2Proof
end

