-- ==== Sys2Proof/Decode.lean ====
section
/-! DEFINITION. The command word: its fields (R80), the exact decoding algorithm (R88), which rejects by name, the encoder,
and the rows of spec/opcode_table.json as masks and matches (R87), all of 30_encoding.md. -/

namespace Sys2Proof

/-- Why a word is no command (R87). Each is reported to the host as the one error code CMD. -/
inductive Reject where
  /-- W = 64 and bits [63:32] are not 0 (R81). -/
  | upperHalf
  /-- A reserved bit of [15:11] is set (R80). -/
  | reservedBits
  /-- The OP value is assigned to no command (R82). -/
  | reservedOpcode
  /-- A field the command does not use is not 0 (R83). -/
  | unusedField
  /-- The SEL value is none of the command's (R83). -/
  | badSelector
  deriving DecidableEq, Repr

/-- The fields of a command word (R80, R84, R85). -/
structure Fields where
  op : Nat
  chk : Bool
  sel : Nat
  reserved : Nat
  idx : Nat
  upper : Nat
  deriving DecidableEq, Repr

/-- The fields of the value `v` held by CMD (R80); `upper` is what stands above bit 31 (R81). -/
def fieldsOf {w : Nat} (v : BitVec w) : Fields where
  op := (v.extractLsb' 0 8).toNat
  chk := v.getLsbD 8
  sel := (v.extractLsb' 9 2).toNat
  reserved := (v.extractLsb' 11 5).toNat
  idx := (v.extractLsb' 16 16).toNat
  upper := (v >>> 32).toNat

/-- A command with no field besides OP (R83, first row). -/
def decodePlain (f : Fields) (i : Instr) : Except Reject Instr :=
  if f.chk = false ∧ f.sel = 0 ∧ f.idx = 0 then .ok i else .error .unusedField

/-- MULWR (R83): SEL selects C, C1 or C2. -/
def decodeMulwr (f : Fields) : Except Reject Instr :=
  if f.chk = false ∧ f.idx = 0 then
    match f.sel with
    | 0 => .ok .mulwrC
    | 1 => .ok .mulwrC1
    | 2 => .ok .mulwrC2
    | _ => .error .badSelector
  else .error .unusedField

/-- A command with an index and a one-of-two selector: KEYWR, KEYRD, TBLRD (R83). -/
def decodeIndexed (f : Fields) (first second : Instr) : Except Reject Instr :=
  if f.chk = false then
    match f.sel with
    | 0 => .ok first
    | 1 => .ok second
    | _ => .error .badSelector
  else .error .unusedField

/-- TBLWR (R83): SEL is 0. -/
def decodeTblwr (f : Fields) : Except Reject Instr :=
  if f.chk = false then (if f.sel = 0 then .ok (.tblwr f.idx) else .error .badSelector) else .error .unusedField

/-- ENC and DEC (R83): CHK selects the unchecked or the checked entry point. -/
def decodeChecked (f : Fields) (unchecked checked : Instr) : Except Reject Instr :=
  if f.sel = 0 ∧ f.idx = 0 then .ok (if f.chk then checked else unchecked) else .error .unusedField

/-- The choice by OP (R82, R88). -/
def decodeOp (f : Fields) : Except Reject Instr :=
  match f.op with
  | 0x00 => decodePlain f .nop
  | 0x01 => decodePlain f .cfg
  | 0x02 => decodeMulwr f
  | 0x03 => decodeIndexed f (.keywrK1 f.idx) (.keywrK2 f.idx)
  | 0x04 => decodeIndexed f (.keyrdK1 f.idx) (.keyrdK2 f.idx)
  | 0x05 => decodeTblwr f
  | 0x06 => decodeIndexed f (.tblrdFwd f.idx) (.tblrdInv f.idx)
  | 0x07 => decodePlain f .arm
  | 0x10 => decodeChecked f .encU .encC
  | 0x11 => decodeChecked f .decU .decC
  | 0x12 => decodePlain f .itstart
  | 0x13 => decodePlain f .itnext
  | 0x20 => decodePlain f .block
  | 0x21 => decodePlain f .invodd
  | 0x22 => decodePlain f .invxs
  | 0x30 => decodePlain f .srst
  | _ => .error .reservedOpcode

/-- Decoding of the W-bit CMD value (R88): total, the same in every state (R91). -/
def decode {w : Nat} (v : BitVec w) : Except Reject Instr :=
  let f := fieldsOf v
  if f.upper ≠ 0 then .error .upperHalf
  else if f.reserved ≠ 0 then .error .reservedBits
  else decodeOp f

/-- The OP value of a command (R82). -/
def Instr.opcode : Instr → BitVec 8
  | .nop => 0x00
  | .cfg => 0x01
  | .mulwrC | .mulwrC1 | .mulwrC2 => 0x02
  | .keywrK1 _ | .keywrK2 _ => 0x03
  | .keyrdK1 _ | .keyrdK2 _ => 0x04
  | .tblwr _ => 0x05
  | .tblrdFwd _ | .tblrdInv _ => 0x06
  | .arm => 0x07
  | .encU | .encC => 0x10
  | .decU | .decC => 0x11
  | .itstart => 0x12
  | .itnext => 0x13
  | .block => 0x20
  | .invodd => 0x21
  | .invxs => 0x22
  | .srst => 0x30

/-- The SEL value of a command (R83). -/
def Instr.selector : Instr → BitVec 2
  | .mulwrC1 | .keywrK2 _ | .keyrdK2 _ | .tblrdInv _ => 1
  | .mulwrC2 => 2
  | .nop | .cfg | .mulwrC | .keywrK1 _ | .keyrdK1 _ | .tblwr _ | .tblrdFwd _ | .arm | .encU | .encC | .decU | .decC
  | .itstart | .itnext | .block | .invodd | .invxs | .srst => 0

/-- The CHK value of a command (R83). -/
def Instr.checked : Instr → BitVec 1
  | .encC | .decC => 1
  | .nop | .cfg | .mulwrC | .mulwrC1 | .mulwrC2 | .keywrK1 _ | .keywrK2 _ | .keyrdK1 _ | .keyrdK2 _ | .tblwr _
  | .tblrdFwd _ | .tblrdInv _ | .arm | .encU | .decU | .itstart | .itnext | .block | .invodd | .invxs | .srst => 0

/-- The 32-bit command word (R80): IDX, five reserved zeros, SEL, CHK, OP, from bit 31 down. -/
def encode (i : Instr) : BitVec 32 :=
  BitVec.ofNat 16 i.idx ++ 0#5 ++ i.selector ++ i.checked ++ i.opcode

/-- The word written to a W-bit CMD register (R81): zeros above bit 31. -/
def encodeWord (w : Nat) (i : Instr) : BitVec w := (encode i).setWidth w

/-- A row of spec/opcode_table.json: `v` matches it when `v & mask = match` (R87). -/
structure OpcodeRow where
  mnemonic : String
  pattern : BitVec 32
  mask : BitVec 32
  deriving DecidableEq, Repr

/-- The rows of spec/opcode_table.json that fix the whole word. -/
def plainRows : List OpcodeRow :=
  [⟨"NOP", 0x00000000, 0xFFFFFFFF⟩, ⟨"CFG", 0x00000001, 0xFFFFFFFF⟩,
   ⟨"MULWR.C", 0x00000002, 0xFFFFFFFF⟩, ⟨"MULWR.C1", 0x00000202, 0xFFFFFFFF⟩, ⟨"MULWR.C2", 0x00000402, 0xFFFFFFFF⟩,
   ⟨"ARM", 0x00000007, 0xFFFFFFFF⟩,
   ⟨"ENC.U", 0x00000010, 0xFFFFFFFF⟩, ⟨"ENC.C", 0x00000110, 0xFFFFFFFF⟩,
   ⟨"DEC.U", 0x00000011, 0xFFFFFFFF⟩, ⟨"DEC.C", 0x00000111, 0xFFFFFFFF⟩,
   ⟨"ITSTART", 0x00000012, 0xFFFFFFFF⟩, ⟨"ITNEXT", 0x00000013, 0xFFFFFFFF⟩,
   ⟨"BLOCK", 0x00000020, 0xFFFFFFFF⟩, ⟨"INVODD", 0x00000021, 0xFFFFFFFF⟩, ⟨"INVXS", 0x00000022, 0xFFFFFFFF⟩,
   ⟨"SRST", 0x00000030, 0xFFFFFFFF⟩]

/-- The rows of spec/opcode_table.json that leave IDX open. -/
def indexedRows : List OpcodeRow :=
  [⟨"KEYWR.K1", 0x00000003, 0x0000FFFF⟩, ⟨"KEYWR.K2", 0x00000203, 0x0000FFFF⟩,
   ⟨"KEYRD.K1", 0x00000004, 0x0000FFFF⟩, ⟨"KEYRD.K2", 0x00000204, 0x0000FFFF⟩,
   ⟨"TBLWR", 0x00000005, 0x0000FFFF⟩,
   ⟨"TBLRD.FWD", 0x00000006, 0x0000FFFF⟩, ⟨"TBLRD.INV", 0x00000206, 0x0000FFFF⟩]

/-- spec/opcode_table.json (R87). -/
def opcodeTable : List OpcodeRow := plainRows ++ indexedRows

/-- Whether a 32-bit word matches a row (R87). -/
def OpcodeRow.matchesWord (r : OpcodeRow) (v : BitVec 32) : Bool := v &&& r.mask == r.pattern

/-- The rows a 32-bit word matches (R87). -/
def matchingRows (v : BitVec 32) : List OpcodeRow := opcodeTable.filter (fun r => r.matchesWord v)

/-- The instruction the decoder reads from a command word given as a number, bit 0 the least significant, on the
reference instance (the host's probe). A command word is one write of a whole register (R61, R80), so no byte order comes in. -/
def decodeTableWord (nbits w : Nat) : Option Instr :=
  (decode (BitVec.ofNat 64 (w % 2 ^ nbits))).toOption

end Sys2Proof
end

