-- ==== Sys2Proof/Machine/BitMath.lean ====
section
/-! DEFINITION. The three bit-math units (section 1 of 42_math.md): `block` (R180), `invOdd` (R181), `invXorShift` (R182). -/

namespace Sys2Proof.Machine

/-- What `block(n)` returns (R180): the mask 2^k - 1, k, and rshift = floor(3k/7). -/
structure BlockParams (w : Nat) where
  mask : BitVec w
  kbits : Nat
  rshift : Nat
  deriving DecidableEq, Repr

/-- `ONES >> (W - k)`, the mask 2^k - 1 without computing 1 << W (R180, R182). -/
def maskOf (w k : Nat) : BitVec w := ones w >>> (w - k)

/-- `block(n)` (R180), with k = W - clz(max(n, 2) - 1). -/
def block {w : Nat} (n : BitVec w) : BlockParams w :=
  let m := if n < 2#w then 2#w else n
  let k := w - (m - 1#w).clz.toNat
  ⟨maskOf w k, k, 3 * k / 7⟩

/-- `n` Newton steps `inv <- inv * (2 - a * inv)` from `inv` (R181). -/
def newtonSteps {w : Nat} (a : BitVec w) : Nat → BitVec w → BitVec w
  | 0, inv => inv
  | n + 1, inv => newtonSteps a n (inv * (2#w - a * inv))

/-- `invOdd(a, mask)` (R181): six Newton steps from 1, then the mask. -/
def invOdd {w : Nat} (a mask : BitVec w) : BitVec w := newtonSteps a 6 1#w &&& mask

/-- The loop of `invXorShift` (R182): while `t < k`, xor `v` with `v >> t` and double `t`; `n` counts the iterations.
The first argument bounds them: k iterations are more than the loop makes from any t >= 1 (log 7). -/
def xorShiftLoop {w : Nat} (k : Nat) : Nat → Nat → BitVec w → Nat → BitVec w × Nat
  | 0, _, v, n => (v, n)
  | fuel + 1, t, v, n => if t < k then xorShiftLoop k fuel (2 * t) (v ^^^ (v >>> t)) (n + 1) else (v, n)

/-- `invXorShift(v, s, k)` (R182): the input is not masked, only the result. -/
def invXorShift {w : Nat} (v : BitVec w) (s k : Nat) : BitVec w := (xorShiftLoop k k s v 0).1 &&& maskOf w k

/-- The number of loop iterations `invXorShift(v, s, k)` makes (RES1 of INVXS, R185). -/
def invXorShiftIterations {w : Nat} (v : BitVec w) (s k : Nat) : Nat := (xorShiftLoop k k s v 0).2

end Sys2Proof.Machine
end

