-- ==== Sys2Proof/Machine/State.lean ====
section
/-! DEFINITION. The state of the machine as plain data: the KPE's architectural state (rule R20 of 10_state.md) and what
stands around it (the reset input, the accesses that arrive, the data of the last read); the state after reset (R231 of
70_reset_and_hazards.md); the reasons a step can stop. -/

namespace Sys2Proof.Machine

open Sys2Proof.Config

/-- STATUS.STATE, the configuration state machine (R24); its code 3 never occurs (R23). -/
inductive ConfigState where
  | unconf
  | loading
  | ready
  deriving DecidableEq, Repr

/-- CFGR.VARIANT (R31); its codes 5 to 7 never occur. -/
inductive Variant where
  | none
  | table
  | bhalf
  | bfull
  | fullw
  deriving DecidableEq, Repr

/-- The error codes of STATUS.ECODE (R202 of 60_exceptions.md); the values 12 to 15 never occur. -/
inductive ErrCode where
  | ok
  | cmd
  | state
  | locked
  | rounds
  | index
  | even
  | table
  | domain
  | nosuch
  | walk
  | arg
  deriving DecidableEq, Repr

/-- The fields of STATUS (R23); the register as a word is `statusWord`, whose reserved bits read 0. -/
structure Status where
  /-- Bit 0: a command is in flight. -/
  busy : Bool
  /-- Bit 1: the last issued command has completed. -/
  done : Bool
  /-- Bits 3:2, STATE (R24). -/
  state : ConfigState
  /-- Bit 4: the last completed command failed. -/
  err : Bool
  /-- Bit 5: the iterator has a next element (R35). -/
  itv : Bool
  /-- Bits 11:8: the error code of the last completed command. -/
  ecode : ErrCode
  /-- Bit 12, sticky: a write to CMD or ARGn was dropped while BUSY (R240). -/
  ovr : Bool
  /-- Bit 13, sticky: an illegal bus access occurred (R204). -/
  buserr : Bool
  deriving DecidableEq, Repr

/-- The architectural state of one KPE (R20), but for ID and XSHIFT, which the parameters fix (R22, R34). -/
structure Kpe (p : Params) where
  /-- STATUS (R23). -/
  status : Status
  /-- CMD, the last issued command word; with BUSY = 1 the command in flight (R26, R39). -/
  cmd : p.Word
  /-- ARG0 (R27). -/
  arg0 : p.Word
  /-- ARG1 (R27). -/
  arg1 : p.Word
  /-- ARG2 (R27). -/
  arg2 : p.Word
  /-- RES0 (R28). -/
  res0 : p.Word
  /-- RES1 (R28). -/
  res1 : p.Word
  /-- RES2 (R28). -/
  res2 : p.Word
  /-- SIZE (R29). -/
  size : p.Word
  /-- NREG, the cardinality N (R30). -/
  nreg : p.Word
  /-- CFGR.VARIANT (R31). -/
  variant : Variant
  /-- CFGR.KBITS (R31). -/
  kbits : BitVec 8
  /-- CFGR.RSHIFT (R31). -/
  rshift : BitVec 8
  /-- ROUNDS (R32). -/
  rounds : p.Word
  /-- MASK (R32). -/
  mask : p.Word
  /-- C (R33). -/
  c : p.Word
  /-- CINV (R33). -/
  cinv : p.Word
  /-- C1 (R33). -/
  c1 : p.Word
  /-- C1INV (R33). -/
  c1inv : p.Word
  /-- C2 (R33). -/
  c2 : p.Word
  /-- C2INV (R33). -/
  c2inv : p.Word
  /-- ITER (R35). -/
  iter : p.Word
  /-- The key RAM K1 (R36). -/
  k1 : Vector (p.Word) p.rMax
  /-- The key RAM K2 (R36). -/
  k2 : Vector (p.Word) p.rMax
  /-- The forward table RAM (R37). -/
  fwd : Vector (p.Word) 16
  /-- The inverse table RAM (R37). -/
  inv : Vector (p.Word) 16
  deriving DecidableEq, Repr

/-- What reaches the KPE from outside, one entry a step, in bus order (R60, R70; log 2). -/
inductive Event (w : Nat) where
  /-- A bus read of `bytes` bytes at byte address `addr` (R60, R61). -/
  | read (addr bytes : Nat)
  /-- A bus write of `bytes` bytes of `value` at byte address `addr` (R60, R61). -/
  | write (addr bytes : Nat) (value : BitVec w)
  /-- The host's WAIT: read STATUS until BUSY is 0 (R90). -/
  | poll
  /-- The engine moves before the next access: it completes the command in flight, if there is one (R39, R40). -/
  | engine
  /-- The reset input is asserted (R230). -/
  | resetOn
  /-- The reset input is released (R230). -/
  | resetOff
  deriving DecidableEq, Repr

/-- The machine: one KPE with its parameters, its reset input, what arrives on the bus, and what the last read returned. -/
structure State where
  /-- The parameters of this instance (R8, R9); no step changes them (log 1). -/
  params : Params
  /-- The KPE (R20). -/
  kpe : Kpe params
  /-- The reset input is asserted (R230). -/
  rst : Bool
  /-- What arrives next, first entry first (log 2). -/
  inputs : List (Event params.w)
  /-- The value the last bus read returned (log 3). -/
  rdata : params.Word
  deriving DecidableEq, Repr

/-- Why the machine stops. -/
inductive Fault where
  /-- Raised by ENC, DEC and ITNEXT in STATE READY with VARIANT = NONE, a combination no run reaches (R24, R31) and for
  which R148, R149 and R151 give no case. Safe: the model stops where the rules say nothing (log 6). -/
  | noVariant
  deriving DecidableEq, Repr

/-- Why an instruction has no meaning. -/
inductive Refusal where
  /-- Raised by an arm of `exec` whose instruction has no meaning yet, with its mnemonic. Safe: the model stops. -/
  | notModelled (mnemonic : String)
  deriving DecidableEq, Repr

/-- STATUS after reset: 0 (R231). -/
def Status.reset : Status where
  busy := false
  done := false
  state := .unconf
  err := false
  itv := false
  ecode := .ok
  ovr := false
  buserr := false

/-- The KPE after reset (R231). -/
def Kpe.reset (p : Params) : Kpe p where
  status := Status.reset
  cmd := 0
  arg0 := 0
  arg1 := 0
  arg2 := 0
  res0 := 0
  res1 := 0
  res2 := 0
  size := 0
  nreg := 0
  variant := .none
  kbits := 0
  rshift := 0
  rounds := 0
  mask := 0
  c := p.cReset
  cinv := invOdd p.cReset 0
  c1 := p.c1Reset
  c1inv := invOdd p.c1Reset (ones p.w)
  c2 := p.c2Reset
  c2inv := invOdd p.c2Reset (ones p.w)
  iter := 0
  k1 := Vector.replicate p.rMax 0
  k2 := Vector.replicate p.rMax 0
  fwd := Vector.replicate 16 0
  inv := Vector.replicate 16 0

/-- The machine right after the reset of an instance, with nothing arriving (R231; `rst`, `inputs` and `rdata` by log 2 and
log 3). -/
def State.resetOf (p : Params) : State where
  params := p
  kpe := Kpe.reset p
  rst := false
  inputs := []
  rdata := 0

/-- The machine right after reset, for the reference instance (log 1). -/
def State.reset : State := State.resetOf reference64

end Sys2Proof.Machine
end

