-- ==== Sys2Proof/Machine/Ops.lean ====
section
/-! DEFINITION. The operations the commands share: reading a RAM entry, issuing a command (R26), completing it with success
(R40) or with an error code, which is this hardware's exception (R201), and the changes a command makes to several
registers at once. -/

namespace Sys2Proof.Machine

open Sys2Proof.Config

/-- Entry `i` of a RAM (R36, R37); an entry the RAM does not have is a free value (log 5). -/
def ramGet {w n : Nat} (t : Vector (BitVec w) n) (i : Nat) : BitVec w := t[i]?.getD (absentEntry w i)

/-- A RAM with entry `i` written (R105, R107, R109). -/
def ramSet {w n : Nat} (t : Vector (BitVec w) n) (i : Nat) (v : BitVec w) : Vector (BitVec w) n := t.setIfInBounds i v

/-- STATUS at the issue of a command: `BUSY <- 1; DONE <- 0; ERR <- 0; ECODE <- 0` (R26). -/
def Status.issued (st : Status) : Status := { st with busy := true, done := false, err := false, ecode := .ok }

/-- STATUS at a successful completion (R40, R200). -/
def Status.succeeded (st : Status) : Status := { st with busy := false, done := true, err := false, ecode := .ok }

/-- STATUS at a failing completion: `BUSY <- 0; DONE <- 1; ERR <- 1; ECODE <- E` (R201). -/
def Status.failed (st : Status) (e : ErrCode) : Status := { st with busy := false, done := true, err := true, ecode := e }

/-- STATUS after a write of a value whose bits 12 and 13 are `clearOvr` and `clearBuserr` (R25). -/
def Status.cleared (st : Status) (clearOvr clearBuserr : Bool) : Status :=
  { st with ovr := st.ovr && !clearOvr, buserr := st.buserr && !clearBuserr }

/-- The issue of the command word `v` (R26). -/
def Kpe.issue {p : Params} (k : Kpe p) (v : p.Word) : Kpe p := { k with cmd := v, status := k.status.issued }

/-- The successful completion of a command whose results `k` already holds (R40). -/
def Kpe.succeed {p : Params} (k : Kpe p) : Kpe p := { k with status := k.status.succeeded }

/-- `fail(E)` (R201): the one exception of the KPE. Nothing but STATUS changes (R206). -/
def Kpe.fail {p : Params} (k : Kpe p) (e : ErrCode) : Kpe p := { k with status := k.status.failed e }

/-- What a command computes before it completes: its results, a failure, or a stop of the model. -/
inductive Reply (α : Type) where
  | ok (a : α)
  | fail (e : ErrCode)
  | stop (f : Fault)
  deriving DecidableEq, Repr

/-- The completion step of a command (R40, R200, R201): it commits the results, or only the failure. -/
def complete (s : State) (r : Reply (Kpe s.params)) : Host.Outcome State Fault Refusal :=
  match r with
  | .ok k => .next { s with kpe := k.succeed }
  | .fail e => .next { s with kpe := s.kpe.fail e }
  | .stop f => .fault f

/-- RES0 to RES2 at a success (R28). -/
def Kpe.setResults {p : Params} (k : Kpe p) (r0 r1 r2 : p.Word) : Kpe p := { k with res0 := r0, res1 := r1, res2 := r2 }

/-- The iterator context (R35). -/
def Kpe.setIterator {p : Params} (k : Kpe p) (i : p.Word) (valid : Bool) : Kpe p :=
  { k with iter := i, status := { k.status with itv := valid } }

/-- STATUS.STATE (R24). -/
def Kpe.setState {p : Params} (k : Kpe p) (st : ConfigState) : Kpe p := { k with status := { k.status with state := st } }

/-- The reset input's effect on the machine (R230): the KPE at its reset values, an in-flight command abandoned; `level` is
what the input then is. -/
def State.hardReset (s : State) (level : Bool) : State := { s with kpe := Kpe.reset s.params, rst := level }

end Sys2Proof.Machine
end

