-- ==== Sys2Proof/Machine/Flags.lean ====
section
/-! DEFINITION. The registers that are made of fields, as words: STATUS (R23), CFGR (R31), ID (R22), XSHIFT (R34) of
10_state.md. -/

namespace Sys2Proof.Machine

open Sys2Proof.Config

/-- A field's value at its place in a word (R11). -/
def fieldAt (w lo v : Nat) : BitVec w := BitVec.ofNat w v <<< lo

/-- The code of STATUS.STATE (R23). -/
def ConfigState.code : ConfigState → Nat
  | .unconf => 0
  | .loading => 1
  | .ready => 2

/-- The code of CFGR.VARIANT (R31). -/
def Variant.code : Variant → Nat
  | .none => 0
  | .table => 1
  | .bhalf => 2
  | .bfull => 3
  | .fullw => 4

/-- The ECODE value of an error (R202). -/
def ErrCode.code : ErrCode → Nat
  | .ok => 0
  | .cmd => 1
  | .state => 2
  | .locked => 3
  | .rounds => 4
  | .index => 5
  | .even => 6
  | .table => 7
  | .domain => 8
  | .nosuch => 9
  | .walk => 10
  | .arg => 11

/-- STATUS as a word (R23): the reserved bits 7:6 and W-1:14 read 0. -/
def statusWord (w : Nat) (st : Status) : BitVec w :=
  fieldAt w 0 st.busy.toNat ||| fieldAt w 1 st.done.toNat ||| fieldAt w 2 st.state.code ||| fieldAt w 4 st.err.toNat
    ||| fieldAt w 5 st.itv.toNat ||| fieldAt w 8 st.ecode.code ||| fieldAt w 12 st.ovr.toNat
    ||| fieldAt w 13 st.buserr.toNat

/-- CFGR as a word (R31). -/
def cfgrWord {p : Params} (k : Kpe p) : p.Word :=
  fieldAt p.w 0 k.variant.code ||| fieldAt p.w 8 k.kbits.toNat ||| fieldAt p.w 16 k.rshift.toNat

/-- ID as a word (R22): W, T_MAX = 16 and R_MAX. -/
def idWord (p : Params) : p.Word := fieldAt p.w 0 p.w ||| fieldAt p.w 8 16 ||| fieldAt p.w 16 p.rMax

/-- XSHIFT as a word (R34). -/
def xshiftWord (p : Params) : p.Word :=
  fieldAt p.w 0 p.s1.toNat ||| fieldAt p.w 8 p.s2.toNat ||| fieldAt p.w 16 p.s3.toNat

end Sys2Proof.Machine
end

