-- ==== Sys2Proof/Machine/Bus.lean ====
section
/-! DEFINITION. The host bus: the register map (R21 of 10_state.md), the decoding of an address (R60, R61, R62 of
20_memory.md), and what a read and a write of a register do (R25 to R28, R63, R65, R71, R240). -/

namespace Sys2Proof.Machine

open Sys2Proof.Config

/-- The 22 registers of the register map (R21). -/
inductive Reg where
  | id
  | status
  | cmd
  | arg0
  | arg1
  | arg2
  | res0
  | res1
  | res2
  | size
  | nreg
  | cfgr
  | rounds
  | mask
  | c
  | cinv
  | c1
  | c1inv
  | c2
  | c2inv
  | xshift
  | iter
  deriving DecidableEq, Repr

/-- The index of a register (R21). -/
def Reg.index : Reg → Nat
  | .id => 0x00
  | .status => 0x01
  | .cmd => 0x02
  | .arg0 => 0x03
  | .arg1 => 0x04
  | .arg2 => 0x05
  | .res0 => 0x06
  | .res1 => 0x07
  | .res2 => 0x08
  | .size => 0x09
  | .nreg => 0x0A
  | .cfgr => 0x0B
  | .rounds => 0x0C
  | .mask => 0x0D
  | .c => 0x0E
  | .cinv => 0x0F
  | .c1 => 0x10
  | .c1inv => 0x11
  | .c2 => 0x12
  | .c2inv => 0x13
  | .xshift => 0x14
  | .iter => 0x15

/-- The registers in index order (R21). -/
def allRegs : List Reg :=
  [.id, .status, .cmd, .arg0, .arg1, .arg2, .res0, .res1, .res2, .size, .nreg, .cfgr, .rounds, .mask, .c, .cinv, .c1,
   .c1inv, .c2, .c2inv, .xshift, .iter]

/-- The register at an index; 0x16 to 0xFF have none (R21, R62). -/
def Reg.ofIndex (n : Nat) : Option Reg := allRegs[n]?

/-- The value of a register as the bus reads it (R21, R71). -/
def readReg {p : Params} (k : Kpe p) : Reg → p.Word
  | .id => idWord p
  | .status => statusWord p.w k.status
  | .cmd => k.cmd
  | .arg0 => k.arg0
  | .arg1 => k.arg1
  | .arg2 => k.arg2
  | .res0 => k.res0
  | .res1 => k.res1
  | .res2 => k.res2
  | .size => k.size
  | .nreg => k.nreg
  | .cfgr => cfgrWord k
  | .rounds => k.rounds
  | .mask => k.mask
  | .c => k.c
  | .cinv => k.cinv
  | .c1 => k.c1
  | .c1inv => k.c1inv
  | .c2 => k.c2
  | .c2inv => k.c2inv
  | .xshift => xshiftWord p
  | .iter => k.iter

/-- `BUSERR <- 1` (R61, R62, R63). -/
def Kpe.busError {p : Params} (k : Kpe p) : Kpe p := { k with status := { k.status with buserr := true } }

/-- `OVR <- 1`: a write dropped while BUSY (R240). -/
def Kpe.overrun {p : Params} (k : Kpe p) : Kpe p := { k with status := { k.status with ovr := true } }

/-- A full-width write of `v` to a register: STATUS clears its sticky bits (R25), CMD issues (R26), ARGn stores (R27), the
last two only while BUSY = 0 (R240); the read-only registers take BUSERR (R63). -/
def writeReg {p : Params} (k : Kpe p) (r : Reg) (v : p.Word) : Kpe p :=
  match r with
  | .status => { k with status := k.status.cleared (v.getLsbD 12) (v.getLsbD 13) }
  | .cmd => if k.status.busy then k.overrun else k.issue v
  | .arg0 => if k.status.busy then k.overrun else { k with arg0 := v }
  | .arg1 => if k.status.busy then k.overrun else { k with arg1 := v }
  | .arg2 => if k.status.busy then k.overrun else { k with arg2 := v }
  | .id | .res0 | .res1 | .res2 | .size | .nreg | .cfgr | .rounds | .mask | .c | .cinv | .c1 | .c1inv | .c2 | .c2inv
  | .xshift | .iter => k.busError

/-- What an access addresses (R60, R61, R62). -/
inductive Target where
  /-- It does not start in the KPE's 256 registers: not an access to the KPE (log 8). -/
  | elsewhere
  /-- Not one aligned W-bit access, or an unmapped index. -/
  | illegal
  /-- One register. -/
  | reg (r : Reg)
  deriving DecidableEq, Repr

/-- The decoding of a byte address and an access width (R60, R61, R62): register `idx` stands at KPE_BASE + idx * (W/8). -/
def busTarget (p : Params) (addr bytes : Nat) : Target :=
  if addr < p.base ∨ p.base + 256 * p.wordBytes ≤ addr then .elsewhere
  else if bytes ≠ p.wordBytes ∨ (addr - p.base) % p.wordBytes ≠ 0 then .illegal
  else
    match Reg.ofIndex ((addr - p.base) / p.wordBytes) with
    | some r => .reg r
    | none => .illegal

/-- The byte address of a register (R60). -/
def Reg.address (p : Params) (r : Reg) : Nat := p.base + r.index * p.wordBytes

/-- A bus read (R60 to R62, R65): the value goes to the host; an illegal one returns 0 and sets BUSERR; while the reset
input is asserted it returns 0 and sets nothing (R230). -/
def busRead (s : State) (addr bytes : Nat) : State :=
  match busTarget s.params addr bytes with
  | .elsewhere => s
  | .illegal => if s.rst then { s with rdata := 0 } else { s with kpe := s.kpe.busError, rdata := 0 }
  | .reg r => if s.rst then { s with rdata := 0 } else { s with rdata := readReg s.kpe r }

/-- A bus write (R60 to R63, R65); ignored while the reset input is asserted (R230). -/
def busWrite (s : State) (addr bytes : Nat) (v : s.params.Word) : State :=
  match busTarget s.params addr bytes with
  | .elsewhere => s
  | .illegal => if s.rst then s else { s with kpe := s.kpe.busError }
  | .reg r => if s.rst then s else { s with kpe := writeReg s.kpe r v }

/-- Byte `j` of a register as a byte-addressed bus shows it, little-endian (R64). -/
def byteLane {w : Nat} (v : BitVec w) (j : Nat) : BitVec 8 := v.extractLsb' (8 * j) 8

end Sys2Proof.Machine
end

