-- ==== Sys2Proof/Machine/Operands.lean ====
section
/-! DEFINITION. The operand forms of the commands: ARG0 to ARG2 whole (R86), signed where a rule says so (R10), the RAM
index with its bound (R85), and the domain check of the checked entry points. -/

namespace Sys2Proof.Machine

open Sys2Proof.Config

/-- Which key RAM SEL selects (R105, R106). -/
inductive KeySel where
  | k1
  | k2
  deriving DecidableEq, Repr

/-- Which table RAM SEL selects (R108). -/
inductive TableSel where
  | fwd
  | inv
  deriving DecidableEq, Repr

/-- Which multiplier SEL selects (R104). -/
inductive MulSel where
  | c
  | c1
  | c2
  deriving DecidableEq, Repr

/-- The size word of CFG, read signed (R100, R101). -/
def Kpe.sizeOperand {p : Params} (k : Kpe p) : Int := signed k.arg0

/-- The requested rounds of CFG, read signed (R100). -/
def Kpe.roundsOperand {p : Params} (k : Kpe p) : Int := signed k.arg1

/-- Whether a key index is one KEYWR and KEYRD accept: below ROUNDS, and K2 only for FullWord (R105, R106). -/
def Kpe.keyIndexOk {p : Params} (k : Kpe p) (sel : KeySel) (idx : Nat) : Bool :=
  decide (idx < k.rounds.toNat) &&
    match sel with
    | .k1 => true
    | .k2 => decide (k.variant = .fullw)

/-- Whether a table index is below N (R107, R108). -/
def Kpe.tableIndexOk {p : Params} (k : Kpe p) (idx : Nat) : Bool := decide (idx < k.nreg.toNat)

/-- Whether ENC and DEC refuse the argument `x` with DOMAIN (R148, R149): a Table always checks, a bounded variant when
CHK is 1, FullWord never. The comparison is unsigned (90_conflicts.md C6). -/
def Kpe.outOfDomain {p : Params} (k : Kpe p) (chk : Bool) (x : p.Word) : Bool :=
  match k.variant with
  | .table => decide (¬ x < k.nreg)
  | .bhalf | .bfull => chk && decide (¬ x < k.nreg)
  | .fullw => false
  | .none => false

/-- A multiplier or the INVODD operand is even when its bit 0 is 0 (R104, R184). -/
def isEven {w : Nat} (v : BitVec w) : Bool := !v.getLsbD 0

end Sys2Proof.Machine
end

