-- ==== Sys2Proof/Machine/Configure.lean ====
section
/-! DEFINITION. The configuration commands of 40_config.md: CFG (R100 to R103), MULWR (R104), KEYWR (R105), KEYRD (R106),
TBLWR (R107), TBLRD (R108) and ARM (R109). -/

namespace Sys2Proof.Machine

open Sys2Proof.Config

/-- `classify(w)`, the variant selector (R101), with the value NREG takes (R30). -/
def classify {w : Nat} (v : BitVec w) : Variant × BitVec w :=
  if signed v = -1 then (.fullw, 0)
  else if signed v < -1 then (.bfull, v)
  else if signed v ≤ 16 then (.table, v)
  else (.bhalf, v)

/-- `default_rounds(var, n)` (R102); a Table has no rounds (R100). -/
def defaultRounds (v : Variant) (n : Nat) : Nat :=
  match v with
  | .bhalf => if n ≤ 2 ^ 10 then 3 else if n ≤ 2 ^ 20 then 4 else 6
  | .bfull => if n ≤ 2 ^ 16 then 3 else if n ≤ 2 ^ 24 then 4 else 5
  | .fullw => 2
  | .table => 0
  | .none => 0

/-- `derived(var, n)` (R103): MASK, KBITS and RSHIFT. -/
def derived {w : Nat} (v : Variant) (n : BitVec w) : BlockParams w :=
  match v with
  | .bhalf | .bfull => block n
  | .fullw => ⟨ones w, w, 0⟩
  | .table => ⟨0, 0, 0⟩
  | .none => ⟨0, 0, 0⟩

/-- The round count CFG resolves for a request r >= 0 (R100): 0 for a Table, the default for 0, else r. -/
def resolveRounds (v : Variant) (n r : Nat) : Nat :=
  match v with
  | .table => 0
  | .bhalf | .bfull | .fullw | .none => if r = 0 then defaultRounds v n else r

/-- What a successful CFG leaves (R100): the new domain with its parameters, keys, tables and iterator cleared, C, C1 and C2
kept, CINV for the new mask (R33), STATE LOADING. -/
def Kpe.configured {p : Params} (k : Kpe p) (v : Variant) (n : p.Word) (rounds : Nat) : Kpe p :=
  let d := derived v n
  { k with
    status := { k.status with state := .loading, itv := false }
    size := k.arg0
    nreg := n
    variant := v
    kbits := BitVec.ofNat 8 d.kbits
    rshift := BitVec.ofNat 8 d.rshift
    rounds := BitVec.ofNat p.w rounds
    mask := d.mask
    cinv := invOdd k.c d.mask
    iter := 0
    k1 := Vector.replicate p.rMax 0
    k2 := Vector.replicate p.rMax 0
    fwd := Vector.replicate 16 0
    inv := Vector.replicate 16 0 }

/-- CFG (R100). -/
def configure {p : Params} (k : Kpe p) : Reply (Kpe p) :=
  let (v, n) := classify k.arg0
  if k.roundsOperand < 0 then .fail .rounds
  else
    let rounds := resolveRounds v n.toNat k.arg1.toNat
    if rounds > p.rMax then .fail .rounds else .ok (k.configured v n rounds)

/-- The multiplier `sel` with its inverse written, and the inverse in RES0 (R104, R33). -/
def Kpe.setMultiplier {p : Params} (k : Kpe p) (sel : MulSel) (v : p.Word) : Kpe p :=
  match sel with
  | .c => { k with c := v, cinv := invOdd v k.mask, res0 := invOdd v k.mask }
  | .c1 => { k with c1 := v, c1inv := invOdd v (ones p.w), res0 := invOdd v (ones p.w) }
  | .c2 => { k with c2 := v, c2inv := invOdd v (ones p.w), res0 := invOdd v (ones p.w) }

/-- MULWR (R104). -/
def writeMultiplier {p : Params} (k : Kpe p) (sel : MulSel) : Reply (Kpe p) :=
  if k.status.state = .ready then .fail .locked
  else if isEven k.arg0 then .fail .even
  else .ok (k.setMultiplier sel k.arg0)

/-- The key RAM `sel` (R36). -/
def Kpe.keyRam {p : Params} (k : Kpe p) (sel : KeySel) : Vector (p.Word) p.rMax :=
  match sel with
  | .k1 => k.k1
  | .k2 => k.k2

/-- An entry of the key RAM `sel` written (R105). -/
def Kpe.setKey {p : Params} (k : Kpe p) (sel : KeySel) (idx : Nat) (v : p.Word) : Kpe p :=
  match sel with
  | .k1 => { k with k1 := ramSet k.k1 idx v }
  | .k2 => { k with k2 := ramSet k.k2 idx v }

/-- KEYWR (R105). -/
def writeKey {p : Params} (k : Kpe p) (sel : KeySel) (idx : Nat) : Reply (Kpe p) :=
  if k.status.state = .unconf then .fail .state
  else if k.status.state = .ready then .fail .locked
  else if !k.keyIndexOk sel idx then .fail .index
  else .ok (k.setKey sel idx k.arg0)

/-- KEYRD (R106). -/
def readKey {p : Params} (k : Kpe p) (sel : KeySel) (idx : Nat) : Reply (Kpe p) :=
  if k.status.state = .unconf then .fail .state
  else if !k.keyIndexOk sel idx then .fail .index
  else .ok { k with res0 := ramGet (k.keyRam sel) idx }

/-- TBLWR (R107). -/
def writeTable {p : Params} (k : Kpe p) (idx : Nat) : Reply (Kpe p) :=
  if k.status.state = .unconf then .fail .state
  else if k.status.state = .ready then .fail .locked
  else if k.variant ≠ .table then .fail .state
  else if !k.tableIndexOk idx then .fail .index
  else .ok { k with fwd := ramSet k.fwd idx k.arg0 }

/-- The table RAM `sel` (R37). -/
def Kpe.tableRam {p : Params} (k : Kpe p) (sel : TableSel) : Vector (p.Word) 16 :=
  match sel with
  | .fwd => k.fwd
  | .inv => k.inv

/-- TBLRD (R108). -/
def readTable {p : Params} (k : Kpe p) (sel : TableSel) (idx : Nat) : Reply (Kpe p) :=
  if k.status.state = .unconf then .fail .state
  else if k.variant ≠ .table then .fail .state
  else if !k.tableIndexOk idx then .fail .index
  else .ok { k with res0 := ramGet (k.tableRam sel) idx }

/-- The first check of ARM (R109): every FWD[i], i < N, is below N. -/
def Kpe.tableInRange {p : Params} (k : Kpe p) : Bool :=
  (List.range k.nreg.toNat).all fun i => decide (ramGet k.fwd i < k.nreg)

/-- The second check of ARM (R109): no two of FWD[0..N) are equal. -/
def Kpe.tableDistinct {p : Params} (k : Kpe p) : Bool :=
  (List.range k.nreg.toNat).all fun j => (List.range j).all fun i => decide (ramGet k.fwd i ≠ ramGet k.fwd j)

/-- `n` steps of the loop that builds INV' (R109): `INV'[FWD[i]] <- i` for i below n, from 16 zeros. -/
def Kpe.buildInverse {p : Params} (k : Kpe p) : Nat → Vector (p.Word) 16
  | 0 => Vector.replicate 16 0
  | n + 1 => ramSet (k.buildInverse n) (ramGet k.fwd n).toNat (BitVec.ofNat p.w n)

/-- ARM (R109). -/
def armKpe {p : Params} (k : Kpe p) : Reply (Kpe p) :=
  if k.status.state = .unconf then .fail .state
  else if k.variant = .table then
    if !k.tableInRange then .fail .table
    else if !k.tableDistinct then .fail .table
    else .ok ({ k with inv := k.buildInverse k.nreg.toNat }.setState .ready)
  else .ok (k.setState .ready)

/-- CFG (R100). -/
def execCfg (s : State) : Host.Outcome State Fault Refusal := complete s (configure s.kpe)

/-- MULWR.C (R104). -/
def execMulwrC (s : State) : Host.Outcome State Fault Refusal := complete s (writeMultiplier s.kpe .c)

/-- MULWR.C1 (R104). -/
def execMulwrC1 (s : State) : Host.Outcome State Fault Refusal := complete s (writeMultiplier s.kpe .c1)

/-- MULWR.C2 (R104). -/
def execMulwrC2 (s : State) : Host.Outcome State Fault Refusal := complete s (writeMultiplier s.kpe .c2)

/-- KEYWR.K1 (R105). -/
def execKeywrK1 (idx : Nat) (s : State) : Host.Outcome State Fault Refusal := complete s (writeKey s.kpe .k1 idx)

/-- KEYWR.K2 (R105). -/
def execKeywrK2 (idx : Nat) (s : State) : Host.Outcome State Fault Refusal := complete s (writeKey s.kpe .k2 idx)

/-- KEYRD.K1 (R106). -/
def execKeyrdK1 (idx : Nat) (s : State) : Host.Outcome State Fault Refusal := complete s (readKey s.kpe .k1 idx)

/-- KEYRD.K2 (R106). -/
def execKeyrdK2 (idx : Nat) (s : State) : Host.Outcome State Fault Refusal := complete s (readKey s.kpe .k2 idx)

/-- TBLWR (R107). -/
def execTblwr (idx : Nat) (s : State) : Host.Outcome State Fault Refusal := complete s (writeTable s.kpe idx)

/-- TBLRD.FWD (R108). -/
def execTblrdFwd (idx : Nat) (s : State) : Host.Outcome State Fault Refusal := complete s (readTable s.kpe .fwd idx)

/-- TBLRD.INV (R108). -/
def execTblrdInv (idx : Nat) (s : State) : Host.Outcome State Fault Refusal := complete s (readTable s.kpe .inv idx)

/-- ARM (R109). -/
def execArm (s : State) : Host.Outcome State Fault Refusal := complete s (armKpe s.kpe)

end Sys2Proof.Machine
end

