-- ==== Sys2Proof/Machine/Control.lean ====
section
/-! DEFINITION. The control commands NOP and SRST (rules R110, R111 of 40_config.md). -/

namespace Sys2Proof.Machine

/-- NOP (R110): nothing but its completion. -/
def execNop (s : State) : Host.Outcome State Fault Refusal := complete s (.ok s.kpe)

/-- SRST (R111): every register and RAM entry at its reset value (R231); the completion then sets DONE. -/
def execSrst (s : State) : Host.Outcome State Fault Refusal := complete s (.ok (Kpe.reset s.params))

end Sys2Proof.Machine
end

