-- ==== Sys2Proof/Machine/MathCommands.lean ====
section
/-! DEFINITION. The stand-alone commands of the bit-math units (42_math.md): BLOCK (R183), INVODD (R184), INVXS (R185).
They are permitted in every STATE. -/

namespace Sys2Proof.Machine

open Sys2Proof.Config

/-- BLOCK (R183). -/
def blockCommand {p : Params} (k : Kpe p) : Reply (Kpe p) :=
  if k.arg0 = 0 then .fail .arg
  else
    let b := block k.arg0
    .ok (k.setResults b.mask (BitVec.ofNat p.w b.kbits) (BitVec.ofNat p.w b.rshift))

/-- INVODD (R184). -/
def invoddCommand {p : Params} (k : Kpe p) : Reply (Kpe p) :=
  if isEven k.arg0 then .fail .even else .ok (k.setResults (invOdd k.arg0 k.arg1) 0 0)

/-- INVXS (R185). -/
def invxsCommand {p : Params} (k : Kpe p) : Reply (Kpe p) :=
  let v := k.arg0
  let s := k.arg1.toNat
  let bits := k.arg2.toNat
  if bits = 0 ∨ bits > p.w then .fail .arg
  else if s = 0 then .fail .arg
  else .ok (k.setResults (invXorShift v s bits) (BitVec.ofNat p.w (invXorShiftIterations v s bits)) 0)

/-- BLOCK (R183). -/
def execBlock (s : State) : Host.Outcome State Fault Refusal := complete s (blockCommand s.kpe)

/-- INVODD (R184). -/
def execInvodd (s : State) : Host.Outcome State Fault Refusal := complete s (invoddCommand s.kpe)

/-- INVXS (R185). -/
def execInvxs (s : State) : Host.Outcome State Fault Refusal := complete s (invxsCommand s.kpe)

end Sys2Proof.Machine
end

