-- ==== Sys2Proof/Machine/Datapath.lean ====
section
/-! DEFINITION. The engine's datapath (section 1 of 41_engine.md): the bounded round and its inverse, the cycle-walking
controller, the FullWord functions and the table lookups. They read the configuration and write nothing. -/

namespace Sys2Proof.Machine

open Sys2Proof.Config

/-- The bounded forward round F(x, r) (R140). -/
def roundF {p : Params} (k : Kpe p) (x : p.Word) (r : Nat) : p.Word :=
  let y := (x * k.c + ramGet k.k1 r) &&& k.mask
  y ^^^ (y >>> k.rshift.toNat)

/-- The bounded inverse round G(x, r) (R142). -/
def roundG {p : Params} (k : Kpe p) (x : p.Word) (r : Nat) : p.Word :=
  (((invXorShift x k.rshift.toNat k.kbits.toNat - ramGet k.k1 r) &&& k.mask) * k.cinv) &&& k.mask

/-- Rounds 0 to n - 1 of F in sequence (R141). -/
def fwdRounds {p : Params} (k : Kpe p) : Nat → p.Word → p.Word
  | 0, x => x
  | n + 1, x => roundF k (fwdRounds k n x) n

/-- Rounds n - 1 down to 0 of G in sequence (R143). -/
def invRounds {p : Params} (k : Kpe p) : Nat → p.Word → p.Word
  | 0, x => x
  | n + 1, x => invRounds k n (roundG k x n)

/-- `pass_fwd(x)` (R141). -/
def passFwd {p : Params} (k : Kpe p) (x : p.Word) : p.Word := fwdRounds k k.rounds.toNat x

/-- `pass_inv(x)` (R143). -/
def passInv {p : Params} (k : Kpe p) (x : p.Word) : p.Word := invRounds k k.rounds.toNat x

/-- The loop of the cycle-walking controller (R144): one pass; below N it returns the value and the number of passes, at
the limit it fails. The first argument is how many passes the limit still allows after this one. -/
def walkLoop {w : Nat} (pass : BitVec w → BitVec w) (nreg : BitVec w) : Nat → BitVec w → Nat → Option (BitVec w × Nat)
  | 0, x, n => if pass x < nreg then some (pass x, n + 1) else none
  | left + 1, x, n => if pass x < nreg then some (pass x, n + 1) else walkLoop pass nreg left (pass x) (n + 1)

/-- The pass limit 2^KBITS - N + 1 (R144). -/
def walkLimit {p : Params} (k : Kpe p) : Nat := 2 ^ k.kbits.toNat - k.nreg.toNat + 1

/-- `walk(x0, step)` (R144): the value below N and the number of passes, or nothing when the limit is reached (WALK). -/
def walk {p : Params} (k : Kpe p) (pass : p.Word → p.Word) (x0 : p.Word) : Option (p.Word × Nat) :=
  walkLoop pass k.nreg (walkLimit k - 1) (x0 &&& k.mask) 0

/-- One FullWord round (R145). -/
def fwRound {p : Params} (k : Kpe p) (x : p.Word) (r : Nat) : p.Word :=
  let a := x ^^^ ramGet k.k1 r
  let b := (a ^^^ (a >>> p.s1.toNat)) * k.c1
  let c := (b ^^^ (b >>> p.s2.toNat)) * k.c2
  (c ^^^ (c >>> p.s3.toNat)) ^^^ ramGet k.k2 r

/-- One inverse FullWord round (R146). -/
def fwInvRound {p : Params} (k : Kpe p) (y : p.Word) (r : Nat) : p.Word :=
  let a := invXorShift (y ^^^ ramGet k.k2 r) p.s3.toNat p.w * k.c2inv
  let b := invXorShift a p.s2.toNat p.w * k.c1inv
  invXorShift b p.s1.toNat p.w ^^^ ramGet k.k1 r

/-- FullWord rounds 0 to n - 1 (R145). -/
def fwRounds {p : Params} (k : Kpe p) : Nat → p.Word → p.Word
  | 0, x => x
  | n + 1, x => fwRound k (fwRounds k n x) n

/-- Inverse FullWord rounds n - 1 down to 0 (R146). -/
def fwInvRounds {p : Params} (k : Kpe p) : Nat → p.Word → p.Word
  | 0, y => y
  | n + 1, y => fwInvRounds k n (fwInvRound k y n)

/-- `fw_enc(x)` (R145). -/
def fwEnc {p : Params} (k : Kpe p) (x : p.Word) : p.Word := fwRounds k k.rounds.toNat x

/-- `fw_dec(y)` (R146). -/
def fwDec {p : Params} (k : Kpe p) (y : p.Word) : p.Word := fwInvRounds k k.rounds.toNat y

/-- A walk's outcome as RES0 and RES1, or the error WALK (R144, R148). -/
def walkReply (w : Nat) (r : Option (BitVec w × Nat)) : Reply (BitVec w × BitVec w) :=
  match r with
  | some (y, n) => .ok (y, BitVec.ofNat w n)
  | none => .fail .walk

/-- The permutation of the configured variant at `x`, with its pass count (R147, R148, R151). -/
def permute {p : Params} (k : Kpe p) (x : p.Word) : Reply (p.Word × p.Word) :=
  match k.variant with
  | .table => .ok (ramGet k.fwd x.toNat, 0)
  | .fullw => .ok (fwEnc k x, 1)
  | .bhalf | .bfull => walkReply p.w (walk k (passFwd k) x)
  | .none => .stop .noVariant

/-- Its inverse at `y`, with its pass count (R147, R149). -/
def unpermute {p : Params} (k : Kpe p) (y : p.Word) : Reply (p.Word × p.Word) :=
  match k.variant with
  | .table => .ok (ramGet k.inv y.toNat, 0)
  | .fullw => .ok (fwDec k y, 1)
  | .bhalf | .bfull => walkReply p.w (walk k (passInv k) y)
  | .none => .stop .noVariant

end Sys2Proof.Machine
end

