-- ==== Sys2Proof/Machine/Permute.lean ====
section
/-! DEFINITION. The engine commands of 41_engine.md: ENC (R148), DEC (R149), ITSTART (R150), ITNEXT (R151). -/

namespace Sys2Proof.Machine

open Sys2Proof.Config

/-- RES0 and RES1 from what the datapath gives, RES2 <- 0 (R148, R149). -/
def Kpe.withValue {p : Params} (k : Kpe p) (r : Reply (p.Word × p.Word)) : Reply (Kpe p) :=
  match r with
  | .ok (y, n) => .ok (k.setResults y n 0)
  | .fail e => .fail e
  | .stop f => .stop f

/-- ENC with its CHK flag (R148). -/
def encodeCommand {p : Params} (k : Kpe p) (chk : Bool) : Reply (Kpe p) :=
  if k.status.state ≠ .ready then .fail .state
  else if k.outOfDomain chk k.arg0 then .fail .domain
  else k.withValue (permute k k.arg0)

/-- DEC with its CHK flag (R149). -/
def decodeCommand {p : Params} (k : Kpe p) (chk : Bool) : Reply (Kpe p) :=
  if k.status.state ≠ .ready then .fail .state
  else if k.outOfDomain chk k.arg0 then .fail .domain
  else k.withValue (unpermute k k.arg0)

/-- ITSTART (R150). -/
def startIterator {p : Params} (k : Kpe p) : Reply (Kpe p) :=
  if k.status.state ≠ .ready then .fail .state
  else if k.variant = .fullw then .ok (k.setIterator k.arg0 true)
  else if ¬ k.arg0 ≤ k.nreg then .fail .domain
  else .ok (k.setIterator k.arg0 (decide (k.arg0 < k.nreg)))

/-- The iterator after it has returned element `i` (R151). -/
def Kpe.advanceIterator {p : Params} (k : Kpe p) (i : p.Word) : Kpe p :=
  if k.variant = .fullw then
    if i = ones p.w then k.setIterator i false else k.setIterator (i + 1#p.w) true
  else k.setIterator (i + 1#p.w) (decide (i + 1#p.w < k.nreg))

/-- ITNEXT (R151). -/
def nextElement {p : Params} (k : Kpe p) : Reply (Kpe p) :=
  if k.status.state ≠ .ready then .fail .state
  else if k.status.itv = false then .fail .nosuch
  else
    match permute k k.iter with
    | .ok (y, n) => .ok ((k.setResults y n k.iter).advanceIterator k.iter)
    | .fail e => .fail e
    | .stop f => .stop f

/-- ENC.U (R148). -/
def execEncU (s : State) : Host.Outcome State Fault Refusal := complete s (encodeCommand s.kpe false)

/-- ENC.C (R148). -/
def execEncC (s : State) : Host.Outcome State Fault Refusal := complete s (encodeCommand s.kpe true)

/-- DEC.U (R149). -/
def execDecU (s : State) : Host.Outcome State Fault Refusal := complete s (decodeCommand s.kpe false)

/-- DEC.C (R149). -/
def execDecC (s : State) : Host.Outcome State Fault Refusal := complete s (decodeCommand s.kpe true)

/-- ITSTART (R150). -/
def execItstart (s : State) : Host.Outcome State Fault Refusal := complete s (startIterator s.kpe)

/-- ITNEXT (R151). -/
def execItnext (s : State) : Host.Outcome State Fault Refusal := complete s (nextElement s.kpe)

end Sys2Proof.Machine
end

