-- ==== Sys2Proof/Machine/Dispatch.lean ====
section
/-! DEFINITION. The completion step of each command (R40): one arm per constructor of Instr, each a call of its meaning. -/

namespace Sys2Proof.Machine

def exec (i : Instr) (s : State) : Host.Outcome State Fault Refusal :=
  match i with
  | .nop => Sys2Proof.Machine.execNop s
  | .cfg => Sys2Proof.Machine.execCfg s
  | .mulwrC => Sys2Proof.Machine.execMulwrC s
  | .mulwrC1 => Sys2Proof.Machine.execMulwrC1 s
  | .mulwrC2 => Sys2Proof.Machine.execMulwrC2 s
  | .keywrK1 idx => Sys2Proof.Machine.execKeywrK1 idx s
  | .keywrK2 idx => Sys2Proof.Machine.execKeywrK2 idx s
  | .keyrdK1 idx => Sys2Proof.Machine.execKeyrdK1 idx s
  | .keyrdK2 idx => Sys2Proof.Machine.execKeyrdK2 idx s
  | .tblwr idx => Sys2Proof.Machine.execTblwr idx s
  | .tblrdFwd idx => Sys2Proof.Machine.execTblrdFwd idx s
  | .tblrdInv idx => Sys2Proof.Machine.execTblrdInv idx s
  | .arm => Sys2Proof.Machine.execArm s
  | .encU => Sys2Proof.Machine.execEncU s
  | .encC => Sys2Proof.Machine.execEncC s
  | .decU => Sys2Proof.Machine.execDecU s
  | .decC => Sys2Proof.Machine.execDecC s
  | .itstart => Sys2Proof.Machine.execItstart s
  | .itnext => Sys2Proof.Machine.execItnext s
  | .block => Sys2Proof.Machine.execBlock s
  | .invodd => Sys2Proof.Machine.execInvodd s
  | .invxs => Sys2Proof.Machine.execInvxs s
  | .srst => Sys2Proof.Machine.execSrst s

end Sys2Proof.Machine
end

