-- ==== Sys2Proof/Machine/Agents.lean ====
section
/-! DEFINITION. What each agent does when it moves: the engine completes the command in flight (R39, R40, R200), the host's
WAIT reads STATUS (R90), the reset input resets (R230). -/

namespace Sys2Proof.Machine

open Sys2Proof.Config

/-- The completion step of the word in CMD (R200): the command it decodes to, or the error CMD (R87, R203). -/
def completeInFlight (s : State) : Host.Outcome State Fault Refusal :=
  match decode s.kpe.cmd with
  | .ok i => exec i s
  | .error _ => complete s (.fail .cmd)

/-- The engine's move (R41): it completes the command in flight; with none, or while the reset input is asserted, it does
nothing (R214, R230). -/
def engineMove (s : State) : Host.Outcome State Fault Refusal :=
  if s.rst then .next s else if s.kpe.status.busy then completeInFlight s else .next s

/-- One read of STATUS by the host's WAIT (R90): while the value read has BUSY = 1 it is repeated, after the engine has
moved (weak fairness, R247; log 11). -/
def pollStatus (s : State) : State :=
  let s' := busRead s (Reg.address s.params .status) s.params.wordBytes
  if s'.rdata.getLsbD 0 then { s' with inputs := .engine :: .poll :: s'.inputs } else s'

/-- The effect of what arrives, already taken off the list (log 2). -/
def handle (s : State) (e : Event s.params.w) : Host.Outcome State Fault Refusal :=
  match e with
  | .read addr bytes => .next (busRead s addr bytes)
  | .write addr bytes v => .next (busWrite s addr bytes v)
  | .poll => .next (pollStatus s)
  | .engine => engineMove s
  | .resetOn => .next (s.hardReset true)
  | .resetOff => if s.rst then .next (s.hardReset false) else .next s

end Sys2Proof.Machine
end

