-- ==== Sys2Proof/Machine/Step.lean ====
section
/-! DEFINITION. One step of the machine: what arrives next takes effect; with nothing left to arrive the engine moves, so that
an issued command completes (R247). And how the host's probe places a command (log 9). -/

namespace Sys2Proof.Machine

/-- One step. -/
def step (s : State) : Host.Outcome State Fault Refusal :=
  match s.inputs with
  | [] => engineMove s
  | e :: rest => handle { s with inputs := rest } e

/-- `s` with the command word `w` of `nbits` bits issued as a write to CMD issues it (R26), so that the very next step is
its completion: the reset input released, and the engine's move first where something else is still to arrive (log 9). -/
def State.withFetchWord (s : State) (nbits w : Nat) : State :=
  { s with
    kpe := s.kpe.issue (BitVec.ofNat s.params.w (w % 2 ^ nbits))
    rst := false
    inputs := match s.inputs with
      | [] => []
      | e :: rest => .engine :: e :: rest }

end Sys2Proof.Machine
end

