-- ==== Sys2Proof/Machine/Assembler.lean ====
section
/-! DEFINITION. Host programs: the lines and pseudo-instructions of R89 and R90 of 30_encoding.md and the bus accesses they
stand for, as entries of `State.inputs`. -/

namespace Sys2Proof.Machine

open Sys2Proof.Config

/-- A command in assembler syntax (R89): its mnemonic, and its index in decimal where it takes one. -/
def asmText (i : Instr) : String := if i.takesIdx then i.mnemonic ++ " " ++ Nat.repr i.idx else i.mnemonic

/-- A line of a host program (R89, R90). -/
inductive HostLine (w : Nat) where
  /-- `WR <reg>, <value>`. -/
  | wr (r : Reg) (v : BitVec w)
  /-- `RD <reg>`. -/
  | rd (r : Reg)
  /-- `CMD <command>`. -/
  | cmd (i : Instr)
  /-- `WAIT`. -/
  | wait
  /-- `EXEC <command>`. -/
  | exec (i : Instr)
  /-- `CONFIG <size>, <rounds>`. -/
  | config (size rounds : BitVec w)
  /-- `SETMUL.<C/C1/C2> <v>`. -/
  | setmul (sel : MulSel) (v : BitVec w)
  /-- `LOADKEY.<K1/K2> <i>, <v>`. -/
  | loadkey (sel : KeySel) (i : Nat) (v : BitVec w)
  /-- `LOADTBL <i>, <v>`. -/
  | loadtbl (i : Nat) (v : BitVec w)
  /-- `ENCODE <x>`. -/
  | encode (x : BitVec w)
  /-- `DECODE <y>`. -/
  | decode (y : BitVec w)
  /-- `ENCODE_UNCHECKED <x>`. -/
  | encodeUnchecked (x : BitVec w)
  /-- `DECODE_UNCHECKED <y>`. -/
  | decodeUnchecked (y : BitVec w)
  deriving DecidableEq, Repr

/-- A full-width write of a register. -/
def writeEvent (p : Params) (r : Reg) (v : p.Word) : Event p.w := .write (r.address p) p.wordBytes v

/-- A full-width read of a register. -/
def readEvent (p : Params) (r : Reg) : Event p.w := .read (r.address p) p.wordBytes

/-- `CMD <command>`: the command's word written to CMD (R89). -/
def commandEvent (p : Params) (i : Instr) : Event p.w := writeEvent p .cmd (encodeWord p.w i)

/-- `EXEC <command>` (R90). -/
def execEvents (p : Params) (i : Instr) : List (Event p.w) := [commandEvent p i, .poll]

/-- The MULWR command of a selector (R90). -/
def mulwrOf : MulSel → Instr
  | .c => .mulwrC
  | .c1 => .mulwrC1
  | .c2 => .mulwrC2

/-- The KEYWR command of a selector (R90). -/
def keywrOf : KeySel → Nat → Instr
  | .k1, i => .keywrK1 i
  | .k2, i => .keywrK2 i

/-- The expansion of a line (R89, R90). -/
def HostLine.expand (p : Params) : HostLine p.w → List (Event p.w)
  | .wr r v => [writeEvent p r v]
  | .rd r => [readEvent p r]
  | .cmd i => [commandEvent p i]
  | .wait => [.poll]
  | .exec i => execEvents p i
  | .config size rounds => [writeEvent p .arg0 size, writeEvent p .arg1 rounds] ++ execEvents p .cfg
  | .setmul sel v => writeEvent p .arg0 v :: execEvents p (mulwrOf sel)
  | .loadkey sel i v => writeEvent p .arg0 v :: execEvents p (keywrOf sel i)
  | .loadtbl i v => writeEvent p .arg0 v :: execEvents p (.tblwr i)
  | .encode x => writeEvent p .arg0 x :: execEvents p .encC ++ [readEvent p .res0]
  | .decode y => writeEvent p .arg0 y :: execEvents p .decC ++ [readEvent p .res0]
  | .encodeUnchecked x => writeEvent p .arg0 x :: execEvents p .encU ++ [readEvent p .res0]
  | .decodeUnchecked y => writeEvent p .arg0 y :: execEvents p .decU ++ [readEvent p .res0]

/-- The bus accesses of a host program, in order (R89). -/
def assemble (p : Params) (program : List (HostLine p.w)) : List (Event p.w) := program.flatMap (HostLine.expand p)

/-- What a host loads into a KPE (R112 of 40_config.md, R232 of 70_reset_and_hazards.md): a size word, the requested rounds, the
multipliers to set, and the keys or the shuffled permutation it has drawn itself (the drawing is outside the KPE, R6). -/
structure Loads (w : Nat) where
  size : BitVec w
  rounds : BitVec w
  multipliers : List (MulSel × BitVec w)
  k1 : List (BitVec w)
  k2 : List (BitVec w)
  table : List (BitVec w)
  deriving DecidableEq, Repr

/-- The host's loading program, in the order of R232: CONFIG, SETMUL, LOADKEY, LOADTBL, ARM. That every K1 load of a FullWord
domain comes before every K2 load is the model's choice (log 17, DESIGN CHOICE): step (3) of R232 names both and no order. -/
def loadProgram {w : Nat} (l : Loads w) : List (HostLine w) :=
  .config l.size l.rounds ::
    (l.multipliers.map fun (sel, v) => .setmul sel v) ++ (l.k1.mapIdx fun i v => .loadkey .k1 i v) ++
      (l.k2.mapIdx fun i v => .loadkey .k2 i v) ++ (l.table.mapIdx fun i v => .loadtbl i v) ++ [.exec .arm]

end Sys2Proof.Machine
end

