-- ==== Sys2Proof/Safety.lean ====
section
/-! DEFINITION. The states the rules allow: the invariant every run from reset keeps, and what it means for a step not to
stop. (R23, R24, R29 to R35 of 10_state.md, R200 of 60; of READY the spec's inference R38; while `rst` is asserted log 10.) -/

namespace Sys2Proof.Machine

open Sys2Proof.Config

/-- STATUS holds what an issue or a completion left (R23, R26, R40, R200). -/
structure Status.Inv (st : Status) : Prop where
  inFlight : st.busy = true → st.done = false ∧ st.err = false ∧ st.ecode = .ok
  errIffCode : st.err = true ↔ st.ecode ≠ .ok

/-- The multipliers are odd and the inverse registers hold their inverses (R33). -/
structure Kpe.MultipliersInv {p : Params} (k : Kpe p) : Prop where
  cOdd : k.c.getLsbD 0 = true
  c1Odd : k.c1.getLsbD 0 = true
  c2Odd : k.c2.getLsbD 0 = true
  cinvEq : k.cinv = invOdd k.c k.mask
  c1invEq : k.c1inv = invOdd k.c1 (ones p.w)
  c2invEq : k.c2inv = invOdd k.c2 (ones p.w)

/-- The configuration registers agree with the size word (R29 to R32, R100 to R103): VARIANT is NONE exactly in UNCONF, and
otherwise the size word gives VARIANT, N, MASK, KBITS and RSHIFT; ROUNDS is within R_MAX where the variant has rounds. -/
structure Kpe.DomainInv {p : Params} (k : Kpe p) : Prop where
  noneIffUnconf : k.variant = .none ↔ k.status.state = .unconf
  unconfigured : k.variant = .none →
    k.size = 0 ∧ k.nreg = 0 ∧ k.mask = 0 ∧ k.kbits = 0 ∧ k.rshift = 0 ∧ k.rounds = 0
  configured : k.variant ≠ .none →
    classify k.size = (k.variant, k.nreg) ∧ k.mask = (derived k.variant k.nreg).mask ∧
      k.kbits = BitVec.ofNat 8 (derived k.variant k.nreg).kbits ∧
      k.rshift = BitVec.ofNat 8 (derived k.variant k.nreg).rshift
  tableRounds : k.variant = .table → k.rounds = 0
  mixRounds : k.variant ≠ .none → k.variant ≠ .table → 1 ≤ k.rounds.toNat ∧ k.rounds.toNat ≤ p.rMax

/-- In READY the Table is a permutation of [0, N) with its inverse (R38 (3), an inference of the spec). -/
structure Kpe.TableInv {p : Params} (k : Kpe p) : Prop where
  inRange : ∀ i, i < k.nreg.toNat → ramGet k.fwd i < k.nreg
  distinct : ∀ i j, i < j → j < k.nreg.toNat → ramGet k.fwd i ≠ ramGet k.fwd j
  inverse : ∀ i, i < k.nreg.toNat → ramGet k.inv (ramGet k.fwd i).toNat = BitVec.ofNat p.w i

/-- The iterator is empty outside READY, and a finite one stays within [0, N] (R35, R150, R151). -/
structure Kpe.IteratorInv {p : Params} (k : Kpe p) : Prop where
  notReady : k.status.state ≠ .ready → k.status.itv = false ∧ k.iter = 0
  finite : k.variant ≠ .fullw → k.iter ≤ k.nreg ∧ (k.status.itv = true → k.iter < k.nreg)

/-- What every run from reset keeps true of the KPE. -/
structure Kpe.Inv {p : Params} (k : Kpe p) : Prop where
  status : k.status.Inv
  multipliers : k.MultipliersInv
  domain : k.DomainInv
  table : k.status.state = .ready → k.variant = .table → k.TableInv
  iterator : k.IteratorInv

/-- What every run from reset keeps true of the machine: legal parameters, the KPE's invariant, and the reset values while
the reset input is asserted (log 10, DESIGN CHOICE: R230 fixes them at the release). -/
structure State.Inv (s : State) : Prop where
  params : s.params.Wf
  kpe : s.kpe.Inv
  held : s.rst = true → s.kpe = Kpe.reset s.params

/-- The state a successful command leaves (R40): the KPE `k`, which holds its results, with `BUSY <- 0, DONE <- 1, ERR <- 0,
ECODE <- 0`; nothing around the KPE changes. -/
def State.completedOk (s : State) (k : Kpe s.params) : State :=
  { s with kpe := { k with status := { k.status with busy := false, done := true, err := false, ecode := .ok } } }

/-- The state a failing command leaves (R201): `BUSY <- 0; DONE <- 1; ERR <- 1; ECODE <- E` and no other change. -/
def State.completedWith (s : State) (e : ErrCode) : State :=
  { s with kpe := { s.kpe with
      status := { s.kpe.status with busy := false, done := true, err := true, ecode := e } } }

/-- The state with BUSERR set and no other change of the KPE (R61, R62, R63). -/
def State.withBusError (s : State) : State :=
  { s with kpe := { s.kpe with status := { s.kpe.status with buserr := true } } }

/-- The state with OVR set and no other change of the KPE (R240). -/
def State.withOverrun (s : State) : State :=
  { s with kpe := { s.kpe with status := { s.kpe.status with ovr := true } } }

/-- The commands that load the configuration (R202, code LOCKED; R244). -/
def isLoadingCommand : Instr → Bool
  | .mulwrC | .mulwrC1 | .mulwrC2 | .keywrK1 _ | .keywrK2 _ | .tblwr _ => true
  | .nop | .cfg | .keyrdK1 _ | .keyrdK2 _ | .tblrdFwd _ | .tblrdInv _ | .arm | .encU | .encC | .decU | .decC | .itstart
  | .itnext | .block | .invodd | .invxs | .srst => false

/-- A step that does not stop the machine. -/
def Continues (o : Host.Outcome State Fault Refusal) : Prop := ∃ t, o = .next t

/-- The domain of a configured variant (R15): [0, N), or every word for FullWord. -/
def Kpe.inDomain {p : Params} (k : Kpe p) (x : p.Word) : Prop := k.variant = .fullw ∨ x < k.nreg

/-- The configuration the bounded round's inverse rests on (R38 (1), R142): MASK = 2^k - 1 with 1 <= k <= W, a shift of at least
1, an odd C and CINV its inverse under MASK. -/
structure Kpe.BoundedConfig {p : Params} (k : Kpe p) : Prop where
  kbitsPos : 1 ≤ k.kbits.toNat
  kbitsLe : k.kbits.toNat ≤ p.w
  maskEq : k.mask = maskOf p.w k.kbits.toNat
  rshiftPos : 1 ≤ k.rshift.toNat
  cOdd : k.c.getLsbD 0 = true
  cinvEq : k.cinv = invOdd k.c k.mask

/-- Two KPEs hold the same loaded values (R112 of 40_config.md): what CFG, MULWR, KEYWR and TBLWR loaded, with the keys below
ROUNDS (K2 for FullWord) and a Table's entries below N, which are all the rounds and lookups read. -/
structure Kpe.SameLoaded {p : Params} (k k' : Kpe p) : Prop where
  size : k.size = k'.size
  rounds : k.rounds = k'.rounds
  c : k.c = k'.c
  c1 : k.c1 = k'.c1
  c2 : k.c2 = k'.c2
  k1 : ∀ i, i < k.rounds.toNat → ramGet k.k1 i = ramGet k'.k1 i
  k2 : k.variant = .fullw → ∀ i, i < k.rounds.toNat → ramGet k.k2 i = ramGet k'.k2 i
  fwd : k.variant = .table → ∀ i, i < k.nreg.toNat → ramGet k.fwd i = ramGet k'.fwd i

/-- What a command shows the host (R112): its three results, its failure or its stop. -/
def Reply.shown {p : Params} : Reply (Kpe p) → Reply (p.Word × p.Word × p.Word)
  | .ok k => .ok (k.res0, k.res1, k.res2)
  | .fail e => .fail e
  | .stop f => .stop f

end Sys2Proof.Machine
end

