-- ==== Sys2Proof/Certificates/Slice0/Obligations.lean ====
section
/-! DEFINITION. The statements for the provers. Each docstring names the rule of spec/ it formalises. `s.completedOk k` and
`s.completedWith e` (Safety.lean) are the two completions of R40 and R201. -/

open Sys2Proof Sys2Proof.Machine Sys2Proof.Config

/-! ## The command word (30_encoding.md) -/

/-- R80, R83, R88: decoding the word of a command gives the command back, at both widths and for every index. -/
def Obligations.DecodingAnEncodedCommandGivesIt : Prop :=
  ∀ (width : Width) (i : Instr), i.wellFormed = true → decode (encodeWord width.bits i) = .ok i

/-- R80 to R83, R88: a word that decodes is the word of what it decodes to, which is well formed. -/
def Obligations.EncodingADecodedWordGivesIt : Prop :=
  ∀ (width : Width) (v : BitVec width.bits) (i : Instr),
    decode v = .ok i → i.wellFormed = true ∧ encodeWord width.bits i = v

/-- R87: a word is legal iff it matches exactly one row of opcode_table.json and its bits above 31 are 0; the row is the
command's; an issued illegal word completes with error CMD and changes nothing else. -/
def Obligations.LegalWordsMatchExactlyOneRow : Prop :=
  (∀ (width : Width) (v : BitVec width.bits),
    ((∃ i, decode v = .ok i) ↔ ((matchingRows (v.setWidth 32)).length = 1 ∧ v >>> 32 = 0)) ∧
    (∀ i, decode v = .ok i → (matchingRows (v.setWidth 32)).map OpcodeRow.mnemonic = [i.mnemonic])) ∧
  (∀ s : State, s.rst = false → s.inputs = [] → s.kpe.status.busy = true → (¬ ∃ i, decode s.kpe.cmd = .ok i) →
    step s = .next (s.completedWith .cmd))

/-- R39, R40, R41: when CMD holds a word that decodes and BUSY is 1, the engine's step is the command's completion, and that
is the machine's step where nothing else arrives first. -/
def Obligations.StepRunsTheDecodedCommand : Prop :=
  ∀ (s : State) (i : Instr), s.rst = false → s.kpe.status.busy = true → decode s.kpe.cmd = .ok i →
    (s.inputs = [] → step s = exec i s) ∧
    (∀ rest, s.inputs = .engine :: rest → step s = exec i { s with inputs := rest })

/-- R89, R100 to R111, R148 to R151, R183 to R185: words written out from the spec decode to the commands they stand for. -/
def Obligations.WordsOfTheSpecDecode : Prop :=
  decode (0x00000000 : BitVec 32) = .ok .nop ∧ decode (0x00000001 : BitVec 64) = .ok .cfg ∧
  decode (0x00000202 : BitVec 32) = .ok .mulwrC1 ∧ decode (0x00050203 : BitVec 64) = .ok (.keywrK2 5) ∧
  decode (0x00010206 : BitVec 32) = .ok (.tblrdInv 1) ∧ decode (0x00000111 : BitVec 64) = .ok .decC ∧
  decode (0x00000013 : BitVec 32) = .ok .itnext ∧ decode (0x00000022 : BitVec 64) = .ok .invxs ∧
  decode (0x00008010 : BitVec 32) = .error .reservedBits ∧ decode (0x100000000 : BitVec 64) = .error .upperHalf

/-! ## The bus (20_memory.md, 10_state.md, 70_reset_and_hazards.md) -/

/-- R61: an access that is not one aligned W-bit access has no effect but BUSERR <- 1, and such a read returns 0. -/
def Obligations.PartialOrMisalignedAccessOnlySetsBuserr : Prop :=
  ∀ (s : State) (rest : List (Event s.params.w)) (addr bytes : Nat), s.params.Wf → s.rst = false →
    s.params.base ≤ addr → addr < s.params.base + 256 * (s.params.w / 8) →
    (bytes ≠ s.params.w / 8 ∨ addr % (s.params.w / 8) ≠ 0) →
    (s.inputs = .read addr bytes :: rest →
      step s = .next { s.withBusError with inputs := rest, rdata := 0 }) ∧
    (∀ v, s.inputs = .write addr bytes v :: rest → step s = .next { s.withBusError with inputs := rest })

/-- R62: an access to an index from 0x16 to 0xFF has no effect but BUSERR <- 1, and a read returns 0. -/
def Obligations.UnmappedIndexOnlySetsBuserr : Prop :=
  ∀ (s : State) (rest : List (Event s.params.w)) (idx : Nat), s.rst = false → 0x16 ≤ idx → idx ≤ 0xFF →
    (s.inputs = .read (s.params.base + idx * (s.params.w / 8)) (s.params.w / 8) :: rest →
      step s = .next { s.withBusError with inputs := rest, rdata := 0 }) ∧
    (∀ v, s.inputs = .write (s.params.base + idx * (s.params.w / 8)) (s.params.w / 8) v :: rest →
      step s = .next { s.withBusError with inputs := rest })

/-- R63 (its first sentence): a write to a read-only register has no effect but BUSERR <- 1, also while BUSY. -/
def Obligations.ReadOnlyRegisterWriteOnlySetsBuserr : Prop :=
  ∀ (s : State) (rest : List (Event s.params.w)) (idx : Nat) (v : s.params.Word), s.rst = false →
    (idx = 0x00 ∨ (0x06 ≤ idx ∧ idx ≤ 0x15)) →
    s.inputs = .write (s.params.base + idx * (s.params.w / 8)) (s.params.w / 8) v :: rest →
    step s = .next { s.withBusError with inputs := rest }

/-- R25: a write to STATUS changes only the sticky bits whose bit of the value is 1, also while BUSY. -/
def Obligations.StatusWriteClearsStickyBits : Prop :=
  ∀ (s : State) (rest : List (Event s.params.w)) (v : s.params.Word), s.rst = false →
    s.inputs = .write (s.params.base + 1 * (s.params.w / 8)) (s.params.w / 8) v :: rest →
    step s = .next { s with
      inputs := rest
      kpe := { s.kpe with
        status := { s.kpe.status with
          ovr := if v.getLsbD 12 then false else s.kpe.status.ovr
          buserr := if v.getLsbD 13 then false else s.kpe.status.buserr } } }

/-- R26: a write to CMD while BUSY = 0 issues the command, legal or not; while BUSY = 1 it is dropped and sets OVR; a read
returns the last issued word, 0 after reset. -/
def Obligations.CmdWriteIssuesTheCommand : Prop :=
  (∀ (s : State) (rest : List (Event s.params.w)) (v : s.params.Word), s.rst = false →
    s.inputs = .write (s.params.base + 2 * (s.params.w / 8)) (s.params.w / 8) v :: rest →
    (s.kpe.status.busy = false →
      step s = .next { s with
        inputs := rest
        kpe := { s.kpe with
          cmd := v
          status := { s.kpe.status with busy := true, done := false, err := false, ecode := .ok } } }) ∧
    (s.kpe.status.busy = true → step s = .next { s.withOverrun with inputs := rest })) ∧
  (∀ (s : State) (rest : List (Event s.params.w)), s.rst = false →
    s.inputs = .read (s.params.base + 2 * (s.params.w / 8)) (s.params.w / 8) :: rest →
    step s = .next { s with inputs := rest, rdata := s.kpe.cmd }) ∧
  (∀ p : Params, (Kpe.reset p).cmd = 0)

/-- R27: a write to ARG0, ARG1 or ARG2 while BUSY = 0 stores the value; commands never write them (SRST resets them, R111);
reset 0. -/
def Obligations.ArgWriteStoresTheOperand : Prop :=
  (∀ (s : State) (rest : List (Event s.params.w)) (v : s.params.Word), s.rst = false → s.kpe.status.busy = false →
    (s.inputs = .write (s.params.base + 3 * (s.params.w / 8)) (s.params.w / 8) v :: rest →
      step s = .next { s with inputs := rest, kpe := { s.kpe with arg0 := v } }) ∧
    (s.inputs = .write (s.params.base + 4 * (s.params.w / 8)) (s.params.w / 8) v :: rest →
      step s = .next { s with inputs := rest, kpe := { s.kpe with arg1 := v } }) ∧
    (s.inputs = .write (s.params.base + 5 * (s.params.w / 8)) (s.params.w / 8) v :: rest →
      step s = .next { s with inputs := rest, kpe := { s.kpe with arg2 := v } })) ∧
  (∀ (s : State) (i : Instr) (k : Kpe s.params), i ≠ .srst → exec i s = .next { s with kpe := k } →
    k.arg0 = s.kpe.arg0 ∧ k.arg1 = s.kpe.arg1 ∧ k.arg2 = s.kpe.arg2) ∧
  (∀ p : Params, (Kpe.reset p).arg0 = 0 ∧ (Kpe.reset p).arg1 = 0 ∧ (Kpe.reset p).arg2 = 0)

/-- R240: a write to CMD, ARG0, ARG1 or ARG2 while BUSY = 1 is dropped and sets OVR; a write to STATUS is exempt. -/
def Obligations.BusyWriteIsDroppedAndSetsOvr : Prop :=
  ∀ (s : State) (rest : List (Event s.params.w)) (idx : Nat) (v : s.params.Word), s.rst = false →
    s.kpe.status.busy = true →
    s.inputs = .write (s.params.base + idx * (s.params.w / 8)) (s.params.w / 8) v :: rest →
    (2 ≤ idx → idx ≤ 5 → step s = .next { s.withOverrun with inputs := rest }) ∧
    (idx = 1 → ∃ t : State, step s = .next t ∧ statusWord t.params.w t.kpe.status =
      statusWord t.params.w { s.kpe.status with
        ovr := s.kpe.status.ovr && !v.getLsbD 12, buserr := s.kpe.status.buserr && !v.getLsbD 13 })

/-- R21, R60, R65, R71: the register map, index by index: a full-width read returns the register, busy or not, and changes
nothing else. -/
def Obligations.RegisterMapReads : Prop :=
  ∀ (s : State) (rest : List (Event s.params.w)) (idx : Nat) (value : s.params.Word), s.rst = false →
    (idx, value) ∈
      [(0x00, idWord s.params), (0x01, statusWord s.params.w s.kpe.status), (0x02, s.kpe.cmd), (0x03, s.kpe.arg0),
       (0x04, s.kpe.arg1), (0x05, s.kpe.arg2), (0x06, s.kpe.res0), (0x07, s.kpe.res1), (0x08, s.kpe.res2),
       (0x09, s.kpe.size), (0x0A, s.kpe.nreg), (0x0B, cfgrWord s.kpe), (0x0C, s.kpe.rounds), (0x0D, s.kpe.mask),
       (0x0E, s.kpe.c), (0x0F, s.kpe.cinv), (0x10, s.kpe.c1), (0x11, s.kpe.c1inv), (0x12, s.kpe.c2),
       (0x13, s.kpe.c2inv), (0x14, xshiftWord s.params), (0x15, s.kpe.iter)] →
    s.inputs = .read (s.params.base + idx * (s.params.w / 8)) (s.params.w / 8) :: rest →
    step s = .next { s with inputs := rest, rdata := value }

/-- R23 (its table of fields), R202 (its codes 0 to 11): where each field of STATUS stands in the word with the numbers of
STATE and ECODE, and the reserved bits read 0. -/
def Obligations.StatusWordHoldsItsFields : Prop :=
  ∀ (width : Width) (st : Status),
    (statusWord width.bits st).getLsbD 0 = st.busy ∧ (statusWord width.bits st).getLsbD 1 = st.done ∧
    ((statusWord width.bits st).extractLsb' 2 2).toNat =
      (match st.state with | .unconf => 0 | .loading => 1 | .ready => 2) ∧
    (statusWord width.bits st).getLsbD 4 = st.err ∧ (statusWord width.bits st).getLsbD 5 = st.itv ∧
    ((statusWord width.bits st).extractLsb' 8 4).toNat =
      (match st.ecode with
        | .ok => 0 | .cmd => 1 | .state => 2 | .locked => 3 | .rounds => 4 | .index => 5 | .even => 6 | .table => 7
        | .domain => 8 | .nosuch => 9 | .walk => 10 | .arg => 11) ∧
    (statusWord width.bits st).getLsbD 12 = st.ovr ∧ (statusWord width.bits st).getLsbD 13 = st.buserr ∧
    (∀ i, i = 6 ∨ i = 7 ∨ 14 ≤ i → (statusWord width.bits st).getLsbD i = false)

/-- R22: ID holds W, 16 and R_MAX, all other bits 0, and never changes. -/
def Obligations.IdHoldsWidthTableAndRounds : Prop :=
  (∀ p : Params, p.Wf →
    ((idWord p).extractLsb' 0 8).toNat = p.w ∧ ((idWord p).extractLsb' 8 8).toNat = 16 ∧
    ((idWord p).extractLsb' 16 16).toNat = p.rMax ∧ (∀ i, 32 ≤ i → (idWord p).getLsbD i = false)) ∧
  (∀ s t : State, step s = .next t → t.params = s.params)

/-- R31, R34: where the fields of CFGR and XSHIFT stand, with the codes 0 to 4 of VARIANT, all other bits 0, and the XSHIFT
values the spec gives. -/
def Obligations.CfgrAndXshiftHoldTheirFields : Prop :=
  (∀ (p : Params) (k : Kpe p),
    ((cfgrWord k).extractLsb' 0 3).toNat =
      (match k.variant with | .none => 0 | .table => 1 | .bhalf => 2 | .bfull => 3 | .fullw => 4) ∧
    (cfgrWord k).extractLsb' 8 8 = k.kbits ∧
    (cfgrWord k).extractLsb' 16 8 = k.rshift ∧
    (∀ i, (3 ≤ i ∧ i < 8) ∨ 24 ≤ i → (cfgrWord k).getLsbD i = false)) ∧
  (∀ p : Params,
    (xshiftWord p).extractLsb' 0 8 = p.s1 ∧ (xshiftWord p).extractLsb' 8 8 = p.s2 ∧
    (xshiftWord p).extractLsb' 16 8 = p.s3 ∧ (∀ i, 24 ≤ i → (xshiftWord p).getLsbD i = false)) ∧
  (∀ p : Params, p.Wf → p.width = .w64 → (xshiftWord p).toNat = 0x1F1B1E) ∧
  (xshiftWord reference32).toNat = 0x05110D

/-- Stale reads, an inference the spec marks as its own (R71 of 20_memory.md; R241): while BUSY = 1 an access changes no
register besides the sticky bits of STATUS, so registers keep the value from before the command. A legal read returns the
register as it stands in that state and sets nothing. A write leaves the value last read alone. -/
def Obligations.AccessesWhileBusyChangeOnlyStickyBits : Prop :=
  ∀ (s : State) (rest : List (Event s.params.w)), s.kpe.status.busy = true →
    (∀ (t : State) (addr bytes : Nat), s.inputs = .read addr bytes :: rest → step s = .next t →
      ∃ (b : Bool) (d : s.params.Word), t = { s with
        inputs := rest
        rdata := d
        kpe := { s.kpe with status := { s.kpe.status with buserr := b } } }) ∧
    (∀ r : Reg, s.rst = false →
      s.inputs = .read (s.params.base + r.index * (s.params.w / 8)) (s.params.w / 8) :: rest →
      step s = .next { s with inputs := rest, rdata := readReg s.kpe r }) ∧
    (∀ (t : State) (addr bytes : Nat) (v : s.params.Word), s.inputs = .write addr bytes v :: rest → step s = .next t →
      ∃ o b : Bool, t = { s with
        inputs := rest
        kpe := { s.kpe with status := { s.kpe.status with ovr := o, buserr := b } } })

/-! ## Reset (70_reset_and_hazards.md) -/

/-- R231: the reset value of every piece of state, for every instance; the two inverses by value for the reference instances
(values the spec derives from R181). -/
def Obligations.ResetLeavesTheResetValues : Prop :=
  (∀ p : Params, statusWord p.w (Kpe.reset p).status = 0 ∧ (Kpe.reset p).cmd = 0 ∧
    (Kpe.reset p).arg0 = 0 ∧ (Kpe.reset p).arg1 = 0 ∧ (Kpe.reset p).arg2 = 0 ∧
    (Kpe.reset p).res0 = 0 ∧ (Kpe.reset p).res1 = 0 ∧ (Kpe.reset p).res2 = 0 ∧
    (Kpe.reset p).size = 0 ∧ (Kpe.reset p).nreg = 0 ∧ cfgrWord (Kpe.reset p) = 0 ∧
    (Kpe.reset p).rounds = 0 ∧ (Kpe.reset p).mask = 0 ∧
    (Kpe.reset p).c = p.cReset ∧ (Kpe.reset p).c1 = p.c1Reset ∧ (Kpe.reset p).c2 = p.c2Reset ∧
    (Kpe.reset p).cinv = 0 ∧ (Kpe.reset p).iter = 0 ∧
    (∀ i, i < p.rMax → ramGet (Kpe.reset p).k1 i = 0 ∧ ramGet (Kpe.reset p).k2 i = 0) ∧
    (∀ i, i < 16 → ramGet (Kpe.reset p).fwd i = 0 ∧ ramGet (Kpe.reset p).inv i = 0)) ∧
  (Kpe.reset reference64).c1inv.toNat = 0x0BA79078168D4BAF ∧
  (Kpe.reset reference64).c2inv.toNat = 0xE9E9F4C41D6DF849 ∧
  (Kpe.reset reference32).c1inv.toNat = 0xB6C92F47 ∧ (Kpe.reset reference32).c2inv.toNat = 0xA89ED915 ∧
  State.reset.kpe = Kpe.reset State.reset.params

/-- R111: SRST, in every STATE, gives every register and RAM entry its reset value, then sets DONE; STATUS reads 2; no other
command returns to UNCONF. -/
def Obligations.SrstRestoresTheResetValues : Prop :=
  encode .srst = 0x00000030 ∧
  ∀ s : State,
    exec .srst s = .next (s.completedOk (Kpe.reset s.params)) ∧
    (statusWord s.params.w (s.completedOk (Kpe.reset s.params)).kpe.status).toNat = 2 ∧
    (∀ (i : Instr) (t : State), exec i s = .next t → s.kpe.status.state ≠ .unconf → t.kpe.status.state = .unconf →
      i = .srst)

/-- R230 (a): while `rst` is asserted every access is ignored and a read of the KPE returns 0, no command completes, and at
the release every piece of state holds its reset value. -/
def Obligations.ResetInputIgnoresTheBusAndResets : Prop :=
  ∀ (s : State) (rest : List (Event s.params.w)),
    (s.inputs = .resetOn :: rest → ∃ k, step s = .next { s with inputs := rest, rst := true, kpe := k }) ∧
    (s.rst = true →
      (∀ addr bytes, s.inputs = .read addr bytes :: rest →
        s.params.base ≤ addr → addr < s.params.base + 256 * (s.params.w / 8) →
        step s = .next { s with inputs := rest, rdata := 0 }) ∧
      (∀ addr bytes v, s.inputs = .write addr bytes v :: rest → step s = .next { s with inputs := rest }) ∧
      (s.inputs = .engine :: rest → step s = .next { s with inputs := rest }) ∧
      (s.inputs = [] → step s = .next s) ∧
      (s.inputs = .resetOff :: rest →
        step s = .next { s with inputs := rest, rst := false, kpe := Kpe.reset s.params }))

/-- R214: with BUSY = 0 and nothing arriving, the KPE holds all state. -/
def Obligations.IdleKpeHoldsItsState : Prop :=
  ∀ (s : State), s.kpe.status.busy = false →
    (s.inputs = [] → step s = .next s) ∧
    (∀ rest, s.inputs = .engine :: rest → step s = .next { s with inputs := rest })

/-! ## Completion, errors and STATE (60_exceptions.md, 10_state.md) -/

/-- R201: a command that ends with ERR = 1 made no change but BUSY, DONE, ERR and ECODE. -/
def Obligations.FailureChangesOnlyStatus : Prop :=
  ∀ (s t : State) (i : Instr), exec i s = .next t → t.kpe.status.err = true →
    t = s.completedWith t.kpe.status.ecode

/-- R200: a completion leaves BUSY 0 and DONE 1 with either ERR 0 and ECODE 0 or ERR 1 and an error code, and, unless the
model stops in READY with VARIANT = NONE (log 6), every command has one. -/
def Obligations.EveryCommandCompletesOnce : Prop :=
  (∀ (s t : State) (i : Instr), exec i s = .next t →
    t.kpe.status.busy = false ∧ t.kpe.status.done = true ∧
    ((t.kpe.status.err = false ∧ t.kpe.status.ecode.code = 0) ∨
      (t.kpe.status.err = true ∧ 1 ≤ t.kpe.status.ecode.code ∧ t.kpe.status.ecode.code ≤ 11))) ∧
  (∀ (s : State) (i : Instr), s.kpe.variant ≠ .none ∨ s.kpe.status.state ≠ .ready → Continues (exec i s))

/-- R23, R26, R27, R28, R33, R35, R104, R105, R107, R109: the frame all commands share. Nothing around the KPE changes; but
for SRST, CMD, the operands and the sticky bits keep their values; the keys, tables, multipliers, configuration and iterator
change only under the commands named, and the commands that return nothing leave the results. -/
def Obligations.CommandsWriteOnlyTheirOwnState : Prop :=
  ∀ (s t : State) (i : Instr), exec i s = .next t →
    ∃ k : Kpe s.params, t = { s with kpe := k } ∧
      (i ≠ .srst →
        k.cmd = s.kpe.cmd ∧ k.arg0 = s.kpe.arg0 ∧ k.arg1 = s.kpe.arg1 ∧ k.arg2 = s.kpe.arg2 ∧
        k.status.ovr = s.kpe.status.ovr ∧ k.status.buserr = s.kpe.status.buserr ∧
        (i ≠ .cfg →
          k.size = s.kpe.size ∧ k.nreg = s.kpe.nreg ∧ k.variant = s.kpe.variant ∧ k.kbits = s.kpe.kbits ∧
          k.rshift = s.kpe.rshift ∧ k.rounds = s.kpe.rounds ∧ k.mask = s.kpe.mask ∧
          ((∀ n, i ≠ .keywrK1 n) → k.k1 = s.kpe.k1) ∧ ((∀ n, i ≠ .keywrK2 n) → k.k2 = s.kpe.k2) ∧
          ((∀ n, i ≠ .tblwr n) → k.fwd = s.kpe.fwd) ∧ (i ≠ .arm → k.inv = s.kpe.inv) ∧
          (i ≠ .mulwrC → k.cinv = s.kpe.cinv) ∧
          (i ≠ .itstart → i ≠ .itnext → k.iter = s.kpe.iter ∧ k.status.itv = s.kpe.status.itv)) ∧
        (i ≠ .mulwrC → k.c = s.kpe.c) ∧
        (i ≠ .mulwrC1 → k.c1 = s.kpe.c1 ∧ k.c1inv = s.kpe.c1inv) ∧
        (i ≠ .mulwrC2 → k.c2 = s.kpe.c2 ∧ k.c2inv = s.kpe.c2inv) ∧
        (i ∈ [.nop, .cfg, .arm, .itstart] ∨ (∃ n, i ∈ [.keywrK1 n, .keywrK2 n, .tblwr n]) →
          k.res0 = s.kpe.res0 ∧ k.res1 = s.kpe.res1 ∧ k.res2 = s.kpe.res2))

/-- R202 (its column "raised by"): which commands can end with which error code. -/
def Obligations.ErrorCodesAreRaisedOnlyByTheirCommands : Prop :=
  ∀ (s t : State) (i : Instr), exec i s = .next t →
    t.kpe.status.ecode ≠ .cmd ∧
    (t.kpe.status.ecode = .state → i ∈ [.arm, .encU, .encC, .decU, .decC, .itstart, .itnext] ∨
      ∃ n, i ∈ [.keywrK1 n, .keywrK2 n, .keyrdK1 n, .keyrdK2 n, .tblwr n, .tblrdFwd n, .tblrdInv n]) ∧
    (t.kpe.status.ecode = .locked → isLoadingCommand i = true ∧ s.kpe.status.state = .ready) ∧
    (t.kpe.status.ecode = .rounds → i = .cfg) ∧
    (t.kpe.status.ecode = .index →
      ∃ n, i ∈ [.keywrK1 n, .keywrK2 n, .keyrdK1 n, .keyrdK2 n, .tblwr n, .tblrdFwd n, .tblrdInv n]) ∧
    (t.kpe.status.ecode = .even → i ∈ [.mulwrC, .mulwrC1, .mulwrC2, .invodd]) ∧
    (t.kpe.status.ecode = .table → i = .arm) ∧
    (t.kpe.status.ecode = .domain → i ∈ [.encU, .encC, .decU, .decC, .itstart]) ∧
    (t.kpe.status.ecode = .nosuch → i = .itnext) ∧
    (t.kpe.status.ecode = .walk → i ∈ [.encU, .encC, .decU, .decC, .itnext]) ∧
    (t.kpe.status.ecode = .arg → i ∈ [.block, .invxs])

/-- R24: the configuration state machine: STATE changes only by an edge of the reset input (to UNCONF), and by the
completion of a command in flight: SRST (to UNCONF), a successful CFG (to LOADING), a successful ARM in LOADING (to
READY). -/
def Obligations.ConfigurationStateTransitions : Prop :=
  ∀ s t : State, step s = .next t → t.kpe.status.state ≠ s.kpe.status.state →
    (t.kpe.status.state = .unconf ∧
      (s.inputs.head? = some .resetOn ∨ (s.rst = true ∧ s.inputs.head? = some .resetOff))) ∨
    (s.rst = false ∧ s.kpe.status.busy = true ∧ (s.inputs = [] ∨ s.inputs.head? = some .engine) ∧
      t.kpe.status.err = false ∧
      ((decode s.kpe.cmd = .ok .srst ∧ t.kpe.status.state = .unconf) ∨
        (decode s.kpe.cmd = .ok .cfg ∧ t.kpe.status.state = .loading) ∨
        (decode s.kpe.cmd = .ok .arm ∧ s.kpe.status.state = .loading ∧ t.kpe.status.state = .ready)))

/-! ## Configuration commands (40_config.md) -/

/-- R110: NOP, in every STATE, changes nothing but its completion, and so clears a reported error. -/
def Obligations.NopOnlyCompletes : Prop :=
  encode .nop = 0x00000000 ∧
  ∀ s : State, exec .nop s = .next (s.completedOk s.kpe) ∧
    (s.kpe.status = ⟨false, true, .ready, true, true, .cmd, false, false⟩ →
      (statusWord s.params.w s.kpe.status).toNat = 0x13A ∧
      (statusWord s.params.w (s.completedOk s.kpe).kpe.status).toNat = 0x2A)

/-- R100, R103: CFG refuses negative rounds and more than R_MAX, and otherwise configures the domain the size word selects,
with keys, tables and iterator cleared, the multipliers kept and CINV for the new mask. -/
def Obligations.CfgConfiguresTheDomain : Prop :=
  encode .cfg = 0x00000001 ∧
  ∀ (s : State) (v : Variant) (n : s.params.Word) (rounds : Nat), s.params.Wf → classify s.kpe.arg0 = (v, n) →
    rounds = (if v = .table then 0 else if s.kpe.arg1 = 0 then defaultRounds v n.toNat else s.kpe.arg1.toNat) →
    (s.kpe.arg1.toInt < 0 → exec .cfg s = .next (s.completedWith .rounds)) ∧
    (0 ≤ s.kpe.arg1.toInt → s.params.rMax < rounds → exec .cfg s = .next (s.completedWith .rounds)) ∧
    (0 ≤ s.kpe.arg1.toInt → rounds ≤ s.params.rMax →
      ∃ k : Kpe s.params, exec .cfg s = .next (s.completedOk k) ∧
        k.size = s.kpe.arg0 ∧ k.nreg = n ∧ k.variant = v ∧ k.rounds.toNat = rounds ∧
        (v = .bhalf ∨ v = .bfull →
          k.mask = (block n).mask ∧ k.kbits.toNat = (block n).kbits ∧ k.rshift.toNat = (block n).rshift) ∧
        (v = .fullw → k.mask = ones s.params.w ∧ k.kbits.toNat = s.params.w ∧ k.rshift = 0) ∧
        (v = .table → k.mask = 0 ∧ k.kbits = 0 ∧ k.rshift = 0) ∧
        k.cinv = invOdd s.kpe.c k.mask ∧ k.c = s.kpe.c ∧ k.c1 = s.kpe.c1 ∧ k.c2 = s.kpe.c2 ∧
        k.c1inv = s.kpe.c1inv ∧ k.c2inv = s.kpe.c2inv ∧
        (∀ i, i < s.params.rMax → ramGet k.k1 i = 0 ∧ ramGet k.k2 i = 0) ∧
        (∀ i, i < 16 → ramGet k.fwd i = 0 ∧ ramGet k.inv i = 0) ∧
        k.iter = 0 ∧ k.status = { s.kpe.status with state := .loading, itv := false } ∧
        k.res0 = s.kpe.res0 ∧ k.res1 = s.kpe.res1 ∧ k.res2 = s.kpe.res2 ∧
        k.cmd = s.kpe.cmd ∧ k.arg0 = s.kpe.arg0 ∧ k.arg1 = s.kpe.arg1 ∧ k.arg2 = s.kpe.arg2)

/-- R101: the variant selector and the range of N it gives each variant. -/
def Obligations.ClassifySelectsTheVariant : Prop :=
  ∀ (width : Width) (w : BitVec width.bits),
    (w.toInt = -1 → classify w = (.fullw, 0)) ∧
    (w.toInt < -1 → classify w = (.bfull, w) ∧ 2 ^ (width.bits - 1) ≤ w.toNat ∧ w.toNat ≤ 2 ^ width.bits - 2) ∧
    (0 ≤ w.toInt → w.toInt ≤ 16 → classify w = (.table, w) ∧ w.toNat ≤ 16) ∧
    (16 < w.toInt → classify w = (.bhalf, w) ∧ 17 ≤ w.toNat ∧ w.toNat ≤ 2 ^ (width.bits - 1) - 1)

/-- R102: the default round counts, and, an inference the spec marks as its own there, that a BoundedFull domain the
selector gives always has 5. -/
def Obligations.DefaultRoundsBySizeBand : Prop :=
  (∀ n : Nat,
    (n ≤ 2 ^ 10 → defaultRounds .bhalf n = 3) ∧ (2 ^ 10 < n → n ≤ 2 ^ 20 → defaultRounds .bhalf n = 4) ∧
    (2 ^ 20 < n → defaultRounds .bhalf n = 6) ∧
    (n ≤ 2 ^ 16 → defaultRounds .bfull n = 3) ∧ (2 ^ 16 < n → n ≤ 2 ^ 24 → defaultRounds .bfull n = 4) ∧
    (2 ^ 24 < n → defaultRounds .bfull n = 5) ∧ defaultRounds .fullw n = 2) ∧
  (∀ (width : Width) (w n : BitVec width.bits), classify w = (.bfull, n) → defaultRounds .bfull n.toNat = 5)

/-- R104: MULWR refuses in READY, then an even value; otherwise it writes the multiplier and its inverse, which RES0
takes. -/
def Obligations.MulwrWritesMultiplierAndInverse : Prop :=
  encode .mulwrC = 0x00000002 ∧ encode .mulwrC1 = 0x00000202 ∧ encode .mulwrC2 = 0x00000402 ∧
  ∀ s : State,
    (s.kpe.status.state = .ready → ∀ i ∈ [Instr.mulwrC, .mulwrC1, .mulwrC2],
      exec i s = .next (s.completedWith .locked)) ∧
    (s.kpe.status.state ≠ .ready → s.kpe.arg0.getLsbD 0 = false → ∀ i ∈ [Instr.mulwrC, .mulwrC1, .mulwrC2],
      exec i s = .next (s.completedWith .even)) ∧
    (s.kpe.status.state ≠ .ready → s.kpe.arg0.getLsbD 0 = true →
      exec .mulwrC s = .next (s.completedOk { s.kpe with
        c := s.kpe.arg0, cinv := invOdd s.kpe.arg0 s.kpe.mask, res0 := invOdd s.kpe.arg0 s.kpe.mask }) ∧
      exec .mulwrC1 s = .next (s.completedOk { s.kpe with
        c1 := s.kpe.arg0, c1inv := invOdd s.kpe.arg0 (ones s.params.w), res0 := invOdd s.kpe.arg0 (ones s.params.w) }) ∧
      exec .mulwrC2 s = .next (s.completedOk { s.kpe with
        c2 := s.kpe.arg0, c2inv := invOdd s.kpe.arg0 (ones s.params.w), res0 := invOdd s.kpe.arg0 (ones s.params.w) }))

/-- R105: KEYWR: STATE in UNCONF, LOCKED in READY, INDEX at or above ROUNDS or for K2 outside FullWord; otherwise the
selected entry takes ARG0 and no other entry or register changes (ROUNDS <= R_MAX is the invariant of R32). -/
def Obligations.KeywrWritesOneKey : Prop :=
  (∀ idx, idx < 65536 →
    (encode (.keywrK1 idx)).toNat = idx * 2 ^ 16 + 0x0003 ∧
    (encode (.keywrK2 idx)).toNat = idx * 2 ^ 16 + 0x0203) ∧
  ∀ (s : State) (idx : Nat), s.kpe.rounds.toNat ≤ s.params.rMax →
    (s.kpe.status.state = .unconf → ∀ i ∈ [Instr.keywrK1 idx, .keywrK2 idx],
      exec i s = .next (s.completedWith .state)) ∧
    (s.kpe.status.state = .ready → ∀ i ∈ [Instr.keywrK1 idx, .keywrK2 idx],
      exec i s = .next (s.completedWith .locked)) ∧
    (s.kpe.status.state = .loading → s.kpe.rounds.toNat ≤ idx → ∀ i ∈ [Instr.keywrK1 idx, .keywrK2 idx],
      exec i s = .next (s.completedWith .index)) ∧
    (s.kpe.status.state = .loading → idx < s.kpe.rounds.toNat →
      ∃ ram : Vector s.params.Word s.params.rMax,
        exec (.keywrK1 idx) s = .next (s.completedOk { s.kpe with k1 := ram }) ∧
        ramGet ram idx = s.kpe.arg0 ∧ (∀ j, j ≠ idx → ramGet ram j = ramGet s.kpe.k1 j)) ∧
    (s.kpe.status.state = .loading → idx < s.kpe.rounds.toNat → s.kpe.variant ≠ .fullw →
      exec (.keywrK2 idx) s = .next (s.completedWith .index)) ∧
    (s.kpe.status.state = .loading → idx < s.kpe.rounds.toNat → s.kpe.variant = .fullw →
      ∃ ram : Vector s.params.Word s.params.rMax,
        exec (.keywrK2 idx) s = .next (s.completedOk { s.kpe with k2 := ram }) ∧
        ramGet ram idx = s.kpe.arg0 ∧ (∀ j, j ≠ idx → ramGet ram j = ramGet s.kpe.k2 j))

/-- R106: KEYRD: STATE in UNCONF, INDEX as KEYWR; otherwise RES0 takes the entry and nothing else changes. -/
def Obligations.KeyrdReadsOneKey : Prop :=
  (∀ idx, idx < 65536 →
    (encode (.keyrdK1 idx)).toNat = idx * 2 ^ 16 + 0x0004 ∧
    (encode (.keyrdK2 idx)).toNat = idx * 2 ^ 16 + 0x0204) ∧
  ∀ (s : State) (idx : Nat),
    (s.kpe.status.state = .unconf → ∀ i ∈ [Instr.keyrdK1 idx, .keyrdK2 idx],
      exec i s = .next (s.completedWith .state)) ∧
    (s.kpe.status.state ≠ .unconf → s.kpe.rounds.toNat ≤ idx → ∀ i ∈ [Instr.keyrdK1 idx, .keyrdK2 idx],
      exec i s = .next (s.completedWith .index)) ∧
    (s.kpe.status.state ≠ .unconf → idx < s.kpe.rounds.toNat →
      exec (.keyrdK1 idx) s = .next (s.completedOk { s.kpe with res0 := ramGet s.kpe.k1 idx })) ∧
    (s.kpe.status.state ≠ .unconf → idx < s.kpe.rounds.toNat → s.kpe.variant ≠ .fullw →
      exec (.keyrdK2 idx) s = .next (s.completedWith .index)) ∧
    (s.kpe.status.state ≠ .unconf → idx < s.kpe.rounds.toNat → s.kpe.variant = .fullw →
      exec (.keyrdK2 idx) s = .next (s.completedOk { s.kpe with res0 := ramGet s.kpe.k2 idx }))

/-- R107: TBLWR: STATE in UNCONF or outside the Table variant, LOCKED in READY, INDEX at or above N; otherwise FWD[idx]
takes ARG0 whole and no other entry or register changes (N <= 16 is the invariant of R101). -/
def Obligations.TblwrWritesOneEntry : Prop :=
  (∀ idx, idx < 65536 →
    (encode (.tblwr idx)).toNat = idx * 2 ^ 16 + 0x0005) ∧
  ∀ (s : State) (idx : Nat), (s.kpe.variant = .table → s.kpe.nreg.toNat ≤ 16) →
    (s.kpe.status.state = .unconf → exec (.tblwr idx) s = .next (s.completedWith .state)) ∧
    (s.kpe.status.state = .ready → exec (.tblwr idx) s = .next (s.completedWith .locked)) ∧
    (s.kpe.status.state = .loading → s.kpe.variant ≠ .table → exec (.tblwr idx) s = .next (s.completedWith .state)) ∧
    (s.kpe.status.state = .loading → s.kpe.variant = .table → s.kpe.nreg.toNat ≤ idx →
      exec (.tblwr idx) s = .next (s.completedWith .index)) ∧
    (s.kpe.status.state = .loading → s.kpe.variant = .table → idx < s.kpe.nreg.toNat →
      ∃ ram : Vector s.params.Word 16,
        exec (.tblwr idx) s = .next (s.completedOk { s.kpe with fwd := ram }) ∧
        ramGet ram idx = s.kpe.arg0 ∧ (∀ j, j ≠ idx → ramGet ram j = ramGet s.kpe.fwd j))

/-- R108: TBLRD: STATE in UNCONF or outside the Table variant, INDEX at or above N; otherwise RES0 takes the entry. -/
def Obligations.TblrdReadsOneEntry : Prop :=
  (∀ idx, idx < 65536 →
    (encode (.tblrdFwd idx)).toNat = idx * 2 ^ 16 + 0x0006 ∧
    (encode (.tblrdInv idx)).toNat = idx * 2 ^ 16 + 0x0206) ∧
  ∀ (s : State) (idx : Nat),
    (s.kpe.status.state = .unconf ∨ s.kpe.variant ≠ .table → ∀ i ∈ [Instr.tblrdFwd idx, .tblrdInv idx],
      exec i s = .next (s.completedWith .state)) ∧
    (s.kpe.status.state ≠ .unconf → s.kpe.variant = .table → s.kpe.nreg.toNat ≤ idx →
      ∀ i ∈ [Instr.tblrdFwd idx, .tblrdInv idx], exec i s = .next (s.completedWith .index)) ∧
    (s.kpe.status.state ≠ .unconf → s.kpe.variant = .table → idx < s.kpe.nreg.toNat →
      exec (.tblrdFwd idx) s = .next (s.completedOk { s.kpe with res0 := ramGet s.kpe.fwd idx }) ∧
      exec (.tblrdInv idx) s = .next (s.completedOk { s.kpe with res0 := ramGet s.kpe.inv idx }))

/-- R109: ARM: STATE in UNCONF; for a Table, TABLE unless FWD[0..N) is a permutation of [0, N), and otherwise INV becomes
its inverse, 0 from N on; in every other case STATE becomes READY and nothing else changes. -/
def Obligations.ArmChecksAndFreezes : Prop :=
  encode .arm = 0x00000007 ∧
  ∀ s : State, (s.kpe.variant = .table → s.kpe.nreg.toNat ≤ 16) →
    (s.kpe.status.state = .unconf → exec .arm s = .next (s.completedWith .state)) ∧
    (s.kpe.status.state ≠ .unconf → s.kpe.variant ≠ .table →
      exec .arm s = .next (s.completedOk { s.kpe with status := { s.kpe.status with state := .ready } })) ∧
    (s.kpe.status.state ≠ .unconf → s.kpe.variant = .table →
      (¬ ((∀ i, i < s.kpe.nreg.toNat → ramGet s.kpe.fwd i < s.kpe.nreg) ∧
          (∀ i j, i < j → j < s.kpe.nreg.toNat → ramGet s.kpe.fwd i ≠ ramGet s.kpe.fwd j)) →
        exec .arm s = .next (s.completedWith .table)) ∧
      ((∀ i, i < s.kpe.nreg.toNat → ramGet s.kpe.fwd i < s.kpe.nreg) →
        (∀ i j, i < j → j < s.kpe.nreg.toNat → ramGet s.kpe.fwd i ≠ ramGet s.kpe.fwd j) →
        ∃ ram : Vector s.params.Word 16,
          exec .arm s = .next (s.completedOk { s.kpe with
            inv := ram, status := { s.kpe.status with state := .ready } }) ∧
          (∀ i, i < s.kpe.nreg.toNat → ramGet ram (ramGet s.kpe.fwd i).toNat = BitVec.ofNat s.params.w i) ∧
          (∀ j, s.kpe.nreg.toNat ≤ j → j < 16 → ramGet ram j = 0)))

/-! ## Engine commands (41_engine.md) -/

/-- R148: ENC, unchecked and checked, in every variant: what each writes and where each fails. -/
def Obligations.EncEncodesInEveryVariant : Prop :=
  encode .encU = 0x00000010 ∧ encode .encC = 0x00000110 ∧
  ∀ s : State,
    (s.kpe.status.state ≠ .ready → ∀ i ∈ [Instr.encU, .encC], exec i s = .next (s.completedWith .state)) ∧
    (s.kpe.status.state = .ready →
      (s.kpe.variant = .table → ∀ i ∈ [Instr.encU, .encC],
        (s.kpe.arg0 < s.kpe.nreg → exec i s = .next (s.completedOk { s.kpe with
          res0 := ramGet s.kpe.fwd s.kpe.arg0.toNat, res1 := 0, res2 := 0 })) ∧
        (¬ s.kpe.arg0 < s.kpe.nreg → exec i s = .next (s.completedWith .domain))) ∧
      (s.kpe.variant = .fullw → ∀ i ∈ [Instr.encU, .encC],
        exec i s = .next (s.completedOk { s.kpe with res0 := fwEnc s.kpe s.kpe.arg0, res1 := 1, res2 := 0 })) ∧
      (s.kpe.variant = .bhalf ∨ s.kpe.variant = .bfull →
        (¬ s.kpe.arg0 < s.kpe.nreg → exec .encC s = .next (s.completedWith .domain)) ∧
        (∀ i ∈ [Instr.encU, .encC], (i = .encC → s.kpe.arg0 < s.kpe.nreg) →
          (∀ y n, walk s.kpe (passFwd s.kpe) s.kpe.arg0 = some (y, n) →
            exec i s = .next (s.completedOk { s.kpe with
              res0 := y, res1 := BitVec.ofNat s.params.w n, res2 := 0 })) ∧
          (walk s.kpe (passFwd s.kpe) s.kpe.arg0 = none → exec i s = .next (s.completedWith .walk)))))

/-- R149: DEC, unchecked and checked, in every variant. -/
def Obligations.DecDecodesInEveryVariant : Prop :=
  encode .decU = 0x00000011 ∧ encode .decC = 0x00000111 ∧
  ∀ s : State,
    (s.kpe.status.state ≠ .ready → ∀ i ∈ [Instr.decU, .decC], exec i s = .next (s.completedWith .state)) ∧
    (s.kpe.status.state = .ready →
      (s.kpe.variant = .table → ∀ i ∈ [Instr.decU, .decC],
        (s.kpe.arg0 < s.kpe.nreg → exec i s = .next (s.completedOk { s.kpe with
          res0 := ramGet s.kpe.inv s.kpe.arg0.toNat, res1 := 0, res2 := 0 })) ∧
        (¬ s.kpe.arg0 < s.kpe.nreg → exec i s = .next (s.completedWith .domain))) ∧
      (s.kpe.variant = .fullw → ∀ i ∈ [Instr.decU, .decC],
        exec i s = .next (s.completedOk { s.kpe with res0 := fwDec s.kpe s.kpe.arg0, res1 := 1, res2 := 0 })) ∧
      (s.kpe.variant = .bhalf ∨ s.kpe.variant = .bfull →
        (¬ s.kpe.arg0 < s.kpe.nreg → exec .decC s = .next (s.completedWith .domain)) ∧
        (∀ i ∈ [Instr.decU, .decC], (i = .decC → s.kpe.arg0 < s.kpe.nreg) →
          (∀ x n, walk s.kpe (passInv s.kpe) s.kpe.arg0 = some (x, n) →
            exec i s = .next (s.completedOk { s.kpe with
              res0 := x, res1 := BitVec.ofNat s.params.w n, res2 := 0 })) ∧
          (walk s.kpe (passInv s.kpe) s.kpe.arg0 = none → exec i s = .next (s.completedWith .walk)))))

/-- R150: ITSTART: STATE unless READY, DOMAIN beyond N on a finite variant; otherwise ITER and ITV. -/
def Obligations.ItstartSetsTheIterator : Prop :=
  encode .itstart = 0x00000012 ∧
  ∀ s : State,
    (s.kpe.status.state ≠ .ready → exec .itstart s = .next (s.completedWith .state)) ∧
    (s.kpe.status.state = .ready →
      (s.kpe.variant = .fullw → exec .itstart s = .next (s.completedOk { s.kpe with
        iter := s.kpe.arg0, status := { s.kpe.status with itv := true } })) ∧
      (s.kpe.variant ≠ .fullw → s.kpe.nreg < s.kpe.arg0 → exec .itstart s = .next (s.completedWith .domain)) ∧
      (s.kpe.variant ≠ .fullw → s.kpe.arg0 < s.kpe.nreg → exec .itstart s = .next (s.completedOk { s.kpe with
        iter := s.kpe.arg0, status := { s.kpe.status with itv := true } })) ∧
      (s.kpe.variant ≠ .fullw → s.kpe.arg0 = s.kpe.nreg → exec .itstart s = .next (s.completedOk { s.kpe with
        iter := s.kpe.arg0, status := { s.kpe.status with itv := false } })))

/-- R151: ITNEXT: STATE unless READY, NOSUCH without a next element; otherwise the element, its passes and its index, and
the iterator moves on, a FullWord one ending at index ONES. -/
def Obligations.ItnextReturnsTheNextElement : Prop :=
  encode .itnext = 0x00000013 ∧
  ∀ s : State,
    (s.kpe.status.state ≠ .ready → exec .itnext s = .next (s.completedWith .state)) ∧
    (s.kpe.status.state = .ready → s.kpe.status.itv = false → exec .itnext s = .next (s.completedWith .nosuch)) ∧
    (s.kpe.status.state = .ready → s.kpe.status.itv = true →
      (s.kpe.variant = .table → exec .itnext s = .next (s.completedOk { s.kpe with
        res0 := ramGet s.kpe.fwd s.kpe.iter.toNat, res1 := 0, res2 := s.kpe.iter, iter := s.kpe.iter + 1
        status := { s.kpe.status with itv := decide (s.kpe.iter + 1 < s.kpe.nreg) } })) ∧
      (s.kpe.variant = .fullw → s.kpe.iter = ones s.params.w →
        exec .itnext s = .next (s.completedOk { s.kpe with
          res0 := fwEnc s.kpe s.kpe.iter, res1 := 1, res2 := s.kpe.iter
          status := { s.kpe.status with itv := false } })) ∧
      (s.kpe.variant = .fullw → s.kpe.iter ≠ ones s.params.w →
        exec .itnext s = .next (s.completedOk { s.kpe with
          res0 := fwEnc s.kpe s.kpe.iter, res1 := 1, res2 := s.kpe.iter, iter := s.kpe.iter + 1 })) ∧
      (s.kpe.variant = .bhalf ∨ s.kpe.variant = .bfull → ∀ y n,
        walk s.kpe (passFwd s.kpe) s.kpe.iter = some (y, n) →
        exec .itnext s = .next (s.completedOk { s.kpe with
          res0 := y, res1 := BitVec.ofNat s.params.w n, res2 := s.kpe.iter, iter := s.kpe.iter + 1
          status := { s.kpe.status with itv := decide (s.kpe.iter + 1 < s.kpe.nreg) } })))

/-! ## Bit-math commands (42_math.md) -/

/-- R183: BLOCK: ARG for 0; otherwise mask, k and rshift, and no configuration register changes. -/
def Obligations.BlockReturnsItsParameters : Prop :=
  encode .block = 0x00000020 ∧
  ∀ s : State,
    (s.kpe.arg0 = 0 → exec .block s = .next (s.completedWith .arg)) ∧
    (s.kpe.arg0 ≠ 0 → ∃ k rs : Nat,
      (k = 1 ∨ 2 ^ (k - 1) < s.kpe.arg0.toNat) ∧ s.kpe.arg0.toNat ≤ 2 ^ k ∧ 1 ≤ k ∧ k ≤ s.params.w ∧ rs = 3 * k / 7 ∧
      exec .block s = .next (s.completedOk { s.kpe with
        res0 := ones s.params.w >>> (s.params.w - k), res1 := BitVec.ofNat s.params.w k
        res2 := BitVec.ofNat s.params.w rs }))

/-- R184: INVODD: EVEN for an even operand; otherwise the inverse under the mask, RES1 and RES2 0. -/
def Obligations.InvoddReturnsTheInverse : Prop :=
  encode .invodd = 0x00000021 ∧
  ∀ s : State,
    (s.kpe.arg0.getLsbD 0 = false → exec .invodd s = .next (s.completedWith .even)) ∧
    (s.kpe.arg0.getLsbD 0 = true → ∃ inv : s.params.Word, s.kpe.arg0 * inv = 1 ∧
      exec .invodd s = .next (s.completedOk { s.kpe with res0 := inv &&& s.kpe.arg1, res1 := 0, res2 := 0 }))

/-- R185: INVXS: ARG for k outside [1, W] or s = 0; otherwise the unmasked-input inverse, and RES1 is the number m of
iterations: the least with s * 2^m >= k. -/
def Obligations.InvxsReturnsTheInverseAndItsIterations : Prop :=
  encode .invxs = 0x00000022 ∧
  ∀ s : State,
    (s.kpe.arg2 = 0 ∨ s.params.w < s.kpe.arg2.toNat ∨ s.kpe.arg1 = 0 →
      exec .invxs s = .next (s.completedWith .arg)) ∧
    (1 ≤ s.kpe.arg2.toNat → s.kpe.arg2.toNat ≤ s.params.w → s.kpe.arg1 ≠ 0 → ∃ m : Nat,
      s.kpe.arg2.toNat ≤ s.kpe.arg1.toNat * 2 ^ m ∧ (∀ j, j < m → s.kpe.arg1.toNat * 2 ^ j < s.kpe.arg2.toNat) ∧
      exec .invxs s = .next (s.completedOk { s.kpe with
        res0 := (List.range m).foldl
            (fun (v : s.params.Word) (j : Nat) => v ^^^ (v >>> (s.kpe.arg1.toNat * 2 ^ j))) s.kpe.arg0 &&&
          (ones s.params.w >>> (s.params.w - s.kpe.arg2.toNat))
        res1 := BitVec.ofNat s.params.w m, res2 := 0 }))

/-- R180: `block(n)` for n >= 1: k = ceil(log2 max(n, 2)), mask = 2^k - 1, rshift = floor(3k/7). -/
def Obligations.BlockParametersOfN : Prop :=
  ∀ (width : Width) (n : BitVec width.bits), 1 ≤ n.toNat →
    1 ≤ (block n).kbits ∧ (block n).kbits ≤ width.bits ∧ max n.toNat 2 ≤ 2 ^ (block n).kbits ∧
    2 ^ ((block n).kbits - 1) < max n.toNat 2 ∧
    (block n).mask.toNat = 2 ^ (block n).kbits - 1 ∧ (block n).rshift = 3 * (block n).kbits / 7

/-- An inference the spec marks as its own (R186 (a) of 42_math.md), for the masks 2^k - 1: six Newton steps give the
inverse of every odd number, at both widths. -/
def Obligations.InvOddInvertsUnderBlockMasks : Prop :=
  ∀ (width : Width) (a : BitVec width.bits) (k : Nat), a.getLsbD 0 = true → k ≤ width.bits →
    (a * invOdd a (maskOf width.bits k)) &&& maskOf width.bits k = 1#width.bits &&& maskOf width.bits k

/-- An inference the spec marks as its own (R186 (a) of 42_math.md) as written, for every mask. It fails for a mask with a
hole: a = 3 and mask = 10 (log 13). -/
def Obligations.InvOddInvertsUnderEveryMask : Prop :=
  ∀ (width : Width) (a mask : BitVec width.bits), a.getLsbD 0 = true →
    (a * invOdd a mask) &&& mask = 1#width.bits &&& mask

/-- An inference the spec marks as its own (R186 (b) of 42_math.md): `invXorShift` is the inverse of the self-xor-shift on
k-bit words, on both sides. -/
def Obligations.InvXorShiftInvertsTheXorShift : Prop :=
  ∀ (width : Width) (v : BitVec width.bits) (s k : Nat), 1 ≤ s → 1 ≤ k → k ≤ width.bits → v.toNat < 2 ^ k →
    invXorShift ((v ^^^ (v >>> s)) &&& maskOf width.bits k) s k = v ∧
    (invXorShift v s k ^^^ (invXorShift v s k >>> s)) &&& maskOf width.bits k = v

/-! ## The datapath (41_engine.md) -/

/-- The bounded forward round (R140 of 41_engine.md) is (x * C + K1[r]) mod 2^k followed by the self-xor-shift; that
wrapping at 2^W changes nothing is an inference the spec marks as its own. -/
def Obligations.BoundedRoundIsMultiplyAddXorShift : Prop :=
  ∀ (p : Params) (k : Kpe p) (x : p.Word) (r : Nat), k.BoundedConfig →
    (roundF k x r).toNat =
      ((x.toNat * k.c.toNat + (ramGet k.k1 r).toNat) % 2 ^ k.kbits.toNat) ^^^
      (((x.toNat * k.c.toNat + (ramGet k.k1 r).toNat) % 2 ^ k.kbits.toNat) >>> k.rshift.toNat)

/-- The inverse round is the exact inverse of the forward round on k-bit words, on both sides: an inference the spec marks
as its own (R142 of 41_engine.md). -/
def Obligations.BoundedInverseRoundIsExact : Prop :=
  ∀ (p : Params) (k : Kpe p) (x : p.Word) (r : Nat), k.BoundedConfig → x.toNat < 2 ^ k.kbits.toNat →
    roundG k (roundF k x r) r = x ∧ roundF k (roundG k x r) r = x

/-- R141, R143, R145, R146: the passes apply their rounds in order, and the inverse passes in reverse order. -/
def Obligations.PassesApplyTheRoundsInOrder : Prop :=
  ∀ (p : Params) (k : Kpe p) (x : p.Word),
    passFwd k x = (List.range k.rounds.toNat).foldl (fun x r => roundF k x r) x ∧
    passInv k x = (List.range k.rounds.toNat).reverse.foldl (fun x r => roundG k x r) x ∧
    fwEnc k x = (List.range k.rounds.toNat).foldl (fun x r =>
      let a := x ^^^ ramGet k.k1 r
      let b := (a ^^^ (a >>> p.s1.toNat)) * k.c1
      let d := (b ^^^ (b >>> p.s2.toNat)) * k.c2
      (d ^^^ (d >>> p.s3.toNat)) ^^^ ramGet k.k2 r) x ∧
    fwDec k x = (List.range k.rounds.toNat).reverse.foldl (fun y r =>
      let a := invXorShift (y ^^^ ramGet k.k2 r) p.s3.toNat p.w * k.c2inv
      let b := invXorShift a p.s2.toNat p.w * k.c1inv
      invXorShift b p.s1.toNat p.w ^^^ ramGet k.k1 r) x

/-- R144: the walk returns the first pass that lands below N, with its number, and fails WALK exactly when none of the first
2^KBITS - N + 1 passes does, a limit of at most 2^(k-1). -/
def Obligations.WalkReturnsTheFirstPassBelowN : Prop :=
  ∀ (p : Params) (k : Kpe p) (pass : p.Word → p.Word) (x : p.Word), k.nreg.toNat ≤ 2 ^ k.kbits.toNat →
    (∀ y n, walk k pass x = some (y, n) ↔
      1 ≤ n ∧ n ≤ 2 ^ k.kbits.toNat - k.nreg.toNat + 1 ∧ y = pass^[n] (x &&& k.mask) ∧ y < k.nreg ∧
      (∀ j, 1 ≤ j → j < n → ¬ pass^[j] (x &&& k.mask) < k.nreg)) ∧
    (walk k pass x = none ↔
      ∀ j, 1 ≤ j → j ≤ 2 ^ k.kbits.toNat - k.nreg.toNat + 1 → ¬ pass^[j] (x &&& k.mask) < k.nreg) ∧
    (2 ^ (k.kbits.toNat - 1) < k.nreg.toNat →
      2 ^ k.kbits.toNat - k.nreg.toNat + 1 ≤ 2 ^ (k.kbits.toNat - 1))

/-- fw_dec(fw_enc(x)) = x for every W-bit x, an inference the spec marks as its own (R146 of 41_engine.md), in every legal
instance whose inverse registers hold (R33). -/
def Obligations.FullWordDecodeInvertsEncode : Prop :=
  ∀ (p : Params) (k : Kpe p) (x : p.Word), p.Wf → k.MultipliersInv →
    fwDec k (fwEnc k x) = x ∧ fwEnc k (fwDec k x) = x

/-! ## Invariants and whole-machine rules -/

/-- The round trip, an inference the spec marks as its own (R152 of 41_engine.md): in READY, for every x of the domain,
DEC(ENC(x)) = x and ENC(DEC(x)) = x, checked or unchecked, with the same number of passes and within the domain. -/
def Obligations.DecodeOfEncodeIsTheArgument : Prop :=
  ∀ (s : State) (x : s.params.Word), s.Inv → s.kpe.status.state = .ready → s.kpe.inDomain x →
    ∀ i j : Instr, (i ∈ [.encU, .encC] ∧ j ∈ [.decU, .decC]) ∨ (i ∈ [.decU, .decC] ∧ j ∈ [.encU, .encC]) →
      ∃ t u : Kpe s.params,
        exec i { s with kpe := { s.kpe with arg0 := x } } = .next { s with kpe := t } ∧ t.status.err = false ∧
        s.kpe.inDomain t.res0 ∧
        exec j { s with kpe := { t with arg0 := t.res0 } } = .next { s with kpe := u } ∧ u.status.err = false ∧
        u.res0 = x ∧ u.res1 = t.res1

/-- When WALK can occur, an inference the spec marks as its own (R154 of 41_engine.md): on a bounded domain in READY the
walk fails exactly when the cycle of its start lies wholly outside [0, N); a checked ENC or DEC and every ITNEXT never raise
WALK. -/
def Obligations.WalkFailsExactlyOnCyclesOutsideTheDomain : Prop :=
  (∀ (s : State) (x : s.params.Word), s.Inv → s.kpe.status.state = .ready →
    s.kpe.variant = .bhalf ∨ s.kpe.variant = .bfull →
    (walk s.kpe (passFwd s.kpe) x = none ↔ ∀ j, ¬ (passFwd s.kpe)^[j] (x &&& s.kpe.mask) < s.kpe.nreg) ∧
    (walk s.kpe (passInv s.kpe) x = none ↔ ∀ j, ¬ (passInv s.kpe)^[j] (x &&& s.kpe.mask) < s.kpe.nreg)) ∧
  (∀ (s t : State) (i : Instr), s.Inv → i ∈ [.encC, .decC, .itnext] → exec i s = .next t →
    t.kpe.status.ecode ≠ .walk)

/-- What READY guarantees of the configured variant, an inference the spec marks as its own (R38 of 10_state.md). -/
def Obligations.ReadyConfigurationIsSound : Prop :=
  ∀ s : State, s.Inv → s.kpe.status.state = .ready →
    (s.kpe.variant = .bhalf ∨ s.kpe.variant = .bfull →
      s.kpe.mask.toNat = 2 ^ s.kpe.kbits.toNat - 1 ∧
      2 ^ (s.kpe.kbits.toNat - 1) < s.kpe.nreg.toNat ∧ s.kpe.nreg.toNat ≤ 2 ^ s.kpe.kbits.toNat ∧
      s.kpe.rshift.toNat = 3 * s.kpe.kbits.toNat / 7 ∧ 2 ≤ s.kpe.rshift.toNat ∧ s.kpe.c.toNat % 2 = 1 ∧
      (s.kpe.c.toNat * s.kpe.cinv.toNat) % 2 ^ s.kpe.kbits.toNat = 1 ∧
      1 ≤ s.kpe.rounds.toNat ∧ s.kpe.rounds.toNat ≤ s.params.rMax) ∧
    (s.kpe.variant = .fullw →
      s.kpe.c1.toNat % 2 = 1 ∧ s.kpe.c2.toNat % 2 = 1 ∧ s.kpe.c1 * s.kpe.c1inv = 1 ∧ s.kpe.c2 * s.kpe.c2inv = 1 ∧
      1 ≤ s.kpe.rounds.toNat ∧ s.kpe.rounds.toNat ≤ s.params.rMax) ∧
    (s.kpe.variant = .table →
      (∀ y, y < s.kpe.nreg.toNat → ∃ i, i < s.kpe.nreg.toNat ∧ (ramGet s.kpe.fwd i).toNat = y) ∧
      (∀ i, i < s.kpe.nreg.toNat → (ramGet s.kpe.fwd i).toNat < s.kpe.nreg.toNat ∧
        ramGet s.kpe.inv (ramGet s.kpe.fwd i).toNat = BitVec.ofNat s.params.w i))

/-- R33: every step keeps the multipliers odd and the inverse registers equal to the inverses, from every state of a legal
instance, and they hold at reset; CFG keeps the multipliers. -/
def Obligations.InverseRegistersAlwaysHoldTheInverses : Prop :=
  (∀ s t : State, s.params.Wf → s.kpe.MultipliersInv → step s = .next t → t.kpe.MultipliersInv) ∧
  (∀ p : Params, p.Wf → (Kpe.reset p).MultipliersInv) ∧
  (∀ s t : State, exec .cfg s = .next t →
    ∃ k : Kpe s.params, t = { s with kpe := k } ∧ k.c = s.kpe.c ∧ k.c1 = s.kpe.c1 ∧ k.c2 = s.kpe.c2)

/-- The invariant of every run (Safety.lean; R23, R24, R29 to R33, R35): every step keeps it. Its clause on READY is an
inference the spec marks as its own (R38 of 10_state.md). Its clause that the KPE already holds the reset values while the
reset input is asserted is the model's choice (log 10): R230 fixes them at the release only. -/
def Obligations.EveryStepKeepsTheInvariant : Prop :=
  ∀ s t : State, s.Inv → step s = .next t → t.Inv

/-- The invariant holds right after the reset of every legal instance (its clause on an asserted reset input is log 10), and
the reference instances are legal. -/
def Obligations.ResetMeetsTheInvariant : Prop :=
  (∀ p : Params, p.Wf → (State.resetOf p).Inv) ∧ State.reset.Inv ∧ reference32.Wf

/-- R40, R200, R247: no step stops the machine in a state of a run, and with nothing arriving the command in flight
completes at once (weak fairness, log 2). -/
def Obligations.NoStepStopsAndCommandsComplete : Prop :=
  (∀ s : State, s.Inv → Continues (step s)) ∧
  (∀ s : State, s.Inv → s.rst = false → s.inputs = [] → s.kpe.status.busy = true →
    ∃ t, step s = .next t ∧ t.kpe.status.busy = false ∧ t.kpe.status.done = true)

/-- R89, R90: the pseudo-instruction ENCODE x, run by an idle host, reads the RES0 that ENC.C leaves. That the run takes 6
steps, one busy poll of WAIT and then the engine's move, is the model's choice (log 11, with the inputs of log 2). -/
def Obligations.EncodeLineReadsTheResult : Prop :=
  ∀ (s : State) (x : s.params.Word) (k : Kpe s.params), s.params.Wf → s.rst = false →
    s.kpe.status.busy = false →
    exec .encC { s with
      inputs := [.poll, .read (s.params.base + 6 * (s.params.w / 8)) (s.params.w / 8)]
      kpe := { s.kpe with
        arg0 := x
        cmd := 0x110#s.params.w
        status := { s.kpe.status with busy := true, done := false, err := false, ecode := .ok } }
      rdata := statusWord s.params.w { s.kpe.status with busy := true, done := false, err := false, ecode := .ok } } =
      .next { s with
        inputs := [.poll, .read (s.params.base + 6 * (s.params.w / 8)) (s.params.w / 8)]
        kpe := k
        rdata := statusWord s.params.w { s.kpe.status with busy := true, done := false, err := false, ecode := .ok } } →
    Host.Core.run Sys2Proof.core 6 { s with inputs := HostLine.expand s.params (.encode x) } =
      .next { s with inputs := [], kpe := k, rdata := k.res0 }
end

