-- ==== Sys2Proof/Laws/BitMath.lean ====
section
/-! SUPPORT. The bit-math units: the loop of R182 is the while loop the rule writes, and the mask is 2^k - 1. -/

namespace Sys2Proof.Machine

/-- The mask of R180 as a number. -/
theorem maskOf_toNat {w k : Nat} (h : k ≤ w) : (maskOf w k).toNat = 2 ^ k - 1 := by
  have h1 : (2 : Nat) ^ w = 2 ^ (w - k) * 2 ^ k := by rw [← Nat.pow_add]; congr 1; omega
  have h2 : 0 < (2 : Nat) ^ (w - k) := Nat.two_pow_pos _
  have h3 : 0 < (2 : Nat) ^ k := Nat.two_pow_pos _
  simp only [maskOf, ones, BitVec.toNat_ushiftRight, BitVec.toNat_allOnes, Nat.shiftRight_eq_div_pow]
  rw [h1]
  have h4 : 2 ^ (w - k) * 2 ^ k - 1 = 2 ^ (w - k) * (2 ^ k - 1) + (2 ^ (w - k) - 1) := by
    have : 2 ^ (w - k) * 2 ^ k = 2 ^ (w - k) * (2 ^ k - 1) + 2 ^ (w - k) := by
      conv_lhs => rw [show 2 ^ k = (2 ^ k - 1) + 1 by omega]
      ring
    omega
  rw [h4, Nat.mul_add_div h2, Nat.div_eq_of_lt (by omega)]
  omega

/-- An `&&&` with the mask is the remainder modulo 2^k. -/
theorem and_maskOf_toNat {w k : Nat} (v : BitVec w) (h : k ≤ w) : (v &&& maskOf w k).toNat = v.toNat % 2 ^ k := by
  rw [BitVec.toNat_and, maskOf_toNat h, Nat.and_two_pow_sub_one_eq_mod]

/-- A bit of the mask. -/
theorem maskOf_getLsbD {w k : Nat} (h : k ≤ w) (i : Nat) : (maskOf w k).getLsbD i = decide (i < k) := by
  simp only [maskOf, ones, BitVec.getLsbD_ushiftRight, BitVec.getLsbD_allOnes]
  congr 1
  simp only [eq_iff_iff]
  omega

/-- The loop stops once `t` has reached `k`, whatever its bound (R182). -/
theorem xorShiftLoop_done {w : Nat} {k t : Nat} (h : k ≤ t) (fuel : Nat) (v : BitVec w) (n : Nat) :
    xorShiftLoop k fuel t v n = (v, n) := by
  cases fuel with
  | zero => rfl
  | succ fuel => simp [xorShiftLoop, Nat.not_lt.mpr h]

/-- The bound is never what ends the loop: with `t >= 1` and `t * 2^fuel >= k`, more of it changes nothing (R182). -/
theorem xorShiftLoop_fuel {w : Nat} {k : Nat} (fuel extra t : Nat) (v : BitVec w) (n : Nat) (h : k ≤ t * 2 ^ fuel) :
    xorShiftLoop k (fuel + extra) t v n = xorShiftLoop k fuel t v n := by
  induction fuel generalizing t v n with
  | zero =>
    rw [xorShiftLoop_done (by simpa using h), xorShiftLoop_done (by simpa using h)]
  | succ fuel ih =>
    rw [show fuel + 1 + extra = (fuel + extra) + 1 by omega]
    simp only [xorShiftLoop]
    split
    · exact ih _ _ _ (by rw [Nat.pow_succ] at h; rw [Nat.mul_comm 2 t, Nat.mul_assoc, Nat.mul_comm 2]; exact h)
    · rfl

/-- One turn of the while loop of R182: while `t < k`, xor with the shifted value and double the shift. -/
theorem xorShiftLoop_while {w : Nat} {k t : Nat} (v : BitVec w) (n : Nat) (ht : 1 ≤ t) (h : t < k) :
    xorShiftLoop k k t v n = xorShiftLoop k k (2 * t) (v ^^^ (v >>> t)) (n + 1) := by
  obtain ⟨fuel, rfl⟩ : ∃ fuel, k = fuel + 1 := ⟨k - 1, by omega⟩
  have hlt : fuel < 2 ^ fuel := Nat.lt_two_pow_self
  have hle : fuel + 1 ≤ 2 * t * 2 ^ fuel := by
    calc fuel + 1 ≤ 1 * 2 ^ fuel := by omega
      _ ≤ 2 * t * 2 ^ fuel := Nat.mul_le_mul_right _ (by omega)
  have h1 : xorShiftLoop (fuel + 1) (fuel + 1) t v n = xorShiftLoop (fuel + 1) fuel (2 * t) (v ^^^ (v >>> t)) (n + 1) := by
    simp [xorShiftLoop, h]
  rw [h1, xorShiftLoop_fuel fuel 1 _ _ _ hle]

end Sys2Proof.Machine
end

