-- ==== Sys2Proof/Laws/Bus.lean ====
section
/-! SUPPORT. The register map and the address decoder: which access reaches which register. -/

namespace Sys2Proof.Machine

open Sys2Proof.Config

theorem wordBytes_pos (p : Params) : 0 < p.wordBytes := by
  cases h : p.width <;> simp [Params.wordBytes, Params.w, h, Width.bits]

theorem ofIndex_index (r : Reg) : Reg.ofIndex r.index = some r := by cases r <;> rfl

theorem ofIndex_none {n : Nat} (h : 0x16 ≤ n) : Reg.ofIndex n = none := by
  simp only [Reg.ofIndex, List.getElem?_eq_none_iff]
  simpa [allRegs] using h

/-- A full-width access at index `n` of the window reaches the register of that index, if there is one (R60, R62). -/
theorem busTarget_index (p : Params) {n : Nat} (h : n < 256) :
    busTarget p (p.base + n * p.wordBytes) p.wordBytes =
      match Reg.ofIndex n with
      | some r => .reg r
      | none => .illegal := by
  have hb := wordBytes_pos p
  have hlt : n * p.wordBytes < 256 * p.wordBytes := Nat.mul_lt_mul_of_pos_right h hb
  have h1 : ¬ 256 * p.wordBytes ≤ n * p.wordBytes := by omega
  simp [busTarget, h1, Nat.mul_div_cancel _ hb] <;> rfl

/-- The address of a register reaches it (R60). -/
theorem busTarget_address (p : Params) (r : Reg) : busTarget p (r.address p) p.wordBytes = .reg r := by
  have h : r.index < 256 := by cases r <;> decide
  simp [Reg.address, busTarget_index p h, ofIndex_index]

/-- Any other access inside the window is illegal (R61). -/
theorem busTarget_illegal (p : Params) {addr bytes : Nat} (h1 : p.base ≤ addr) (h2 : addr < p.base + 256 * p.wordBytes)
    (h3 : bytes ≠ p.wordBytes ∨ (addr - p.base) % p.wordBytes ≠ 0) : busTarget p addr bytes = .illegal := by
  have h4 : ¬ (addr < p.base ∨ p.base + 256 * p.wordBytes ≤ addr) := by omega
  simp only [busTarget, if_neg h4, if_pos h3]

end Sys2Proof.Machine
end

