-- ==== Sys2Proof/Laws/Ops.lean ====
section
/-! SUPPORT. What the shared operations can do, said once: RAM reads and writes, the completion, and each instruction as one
completion of its command. -/

namespace Sys2Proof.Machine

open Sys2Proof.Config

/-! ### RAM entries -/

theorem ramGet_ramSet_same {w n : Nat} (t : Vector (BitVec w) n) {i : Nat} (v : BitVec w) (h : i < n) :
    ramGet (ramSet t i v) i = v := by
  simp [ramGet, ramSet, h]

theorem ramGet_ramSet_ne {w n : Nat} (t : Vector (BitVec w) n) {i j : Nat} (v : BitVec w) (h : j ≠ i) :
    ramGet (ramSet t i v) j = ramGet t j := by
  simp [ramGet, ramSet, Ne.symm h]

theorem ramGet_replicate {w n : Nat} {i : Nat} (v : BitVec w) (h : i < n) :
    ramGet (Vector.replicate n v) i = v := by
  simp [ramGet, h]

/-! ### Completion -/

@[simp] theorem complete_ok (s : State) (k : Kpe s.params) : complete s (.ok k) = .next (s.completedOk k) := rfl

@[simp] theorem complete_fail (s : State) (e : ErrCode) : complete s (.fail e) = .next (s.completedWith e) := rfl

@[simp] theorem complete_stop (s : State) (f : Fault) : complete s (.stop f) = .fault f := rfl

/-- A completion that gives a next state committed a result or a failure. -/
theorem complete_next {s t : State} {r : Reply (Kpe s.params)} (h : complete s r = .next t) :
    (∃ k, r = .ok k ∧ t = s.completedOk k) ∨ (∃ e, r = .fail e ∧ t = s.completedWith e) := by
  cases r with
  | ok k => exact .inl ⟨k, rfl, by simpa using h.symm⟩
  | fail e => exact .inr ⟨e, rfl, by simpa using h.symm⟩
  | stop f => simp at h

/-- What a command computes before its completion. -/
def replyOf (i : Instr) {p : Params} (k : Kpe p) : Reply (Kpe p) :=
  match i with
  | .nop => .ok k
  | .cfg => configure k
  | .mulwrC => writeMultiplier k .c
  | .mulwrC1 => writeMultiplier k .c1
  | .mulwrC2 => writeMultiplier k .c2
  | .keywrK1 idx => writeKey k .k1 idx
  | .keywrK2 idx => writeKey k .k2 idx
  | .keyrdK1 idx => readKey k .k1 idx
  | .keyrdK2 idx => readKey k .k2 idx
  | .tblwr idx => writeTable k idx
  | .tblrdFwd idx => readTable k .fwd idx
  | .tblrdInv idx => readTable k .inv idx
  | .arm => armKpe k
  | .encU => encodeCommand k false
  | .encC => encodeCommand k true
  | .decU => decodeCommand k false
  | .decC => decodeCommand k true
  | .itstart => startIterator k
  | .itnext => nextElement k
  | .block => blockCommand k
  | .invodd => invoddCommand k
  | .invxs => invxsCommand k
  | .srst => .ok (Kpe.reset p)

/-- Every instruction is the completion of its command: later proofs split `replyOf`, not `exec`. -/
theorem exec_eq_complete (i : Instr) (s : State) : exec i s = complete s (replyOf i s.kpe) := by
  cases i <;> rfl

/-- What an instruction that gives a next state did. -/
theorem exec_next {i : Instr} {s t : State} (h : exec i s = .next t) :
    (∃ k, replyOf i s.kpe = .ok k ∧ t = s.completedOk k) ∨
    (∃ e, replyOf i s.kpe = .fail e ∧ t = s.completedWith e) :=
  complete_next (by rwa [exec_eq_complete] at h)

end Sys2Proof.Machine
end

