-- ==== Sys2Proof/Laws/State.lean ====
section
/-! SUPPORT. One lemma per field per named update of the state, each true by unfolding the update once, so that no later proof
unfolds a record update. -/

namespace Sys2Proof.Machine

open Sys2Proof.Config

variable {p : Params} (st : Status) (k : Kpe p) (s : State)

@[simp] theorem Status.issued_busy : (st.issued).busy = true := rfl
@[simp] theorem Status.issued_done : (st.issued).done = false := rfl
@[simp] theorem Status.issued_state : (st.issued).state = st.state := rfl
@[simp] theorem Status.issued_err : (st.issued).err = false := rfl
@[simp] theorem Status.issued_itv : (st.issued).itv = st.itv := rfl
@[simp] theorem Status.issued_ecode : (st.issued).ecode = .ok := rfl
@[simp] theorem Status.issued_ovr : (st.issued).ovr = st.ovr := rfl
@[simp] theorem Status.issued_buserr : (st.issued).buserr = st.buserr := rfl

@[simp] theorem Status.succeeded_busy : (st.succeeded).busy = false := rfl
@[simp] theorem Status.succeeded_done : (st.succeeded).done = true := rfl
@[simp] theorem Status.succeeded_state : (st.succeeded).state = st.state := rfl
@[simp] theorem Status.succeeded_err : (st.succeeded).err = false := rfl
@[simp] theorem Status.succeeded_itv : (st.succeeded).itv = st.itv := rfl
@[simp] theorem Status.succeeded_ecode : (st.succeeded).ecode = .ok := rfl
@[simp] theorem Status.succeeded_ovr : (st.succeeded).ovr = st.ovr := rfl
@[simp] theorem Status.succeeded_buserr : (st.succeeded).buserr = st.buserr := rfl

@[simp] theorem Status.failed_busy (e : ErrCode) : (st.failed e).busy = false := rfl
@[simp] theorem Status.failed_done (e : ErrCode) : (st.failed e).done = true := rfl
@[simp] theorem Status.failed_state (e : ErrCode) : (st.failed e).state = st.state := rfl
@[simp] theorem Status.failed_err (e : ErrCode) : (st.failed e).err = true := rfl
@[simp] theorem Status.failed_itv (e : ErrCode) : (st.failed e).itv = st.itv := rfl
@[simp] theorem Status.failed_ecode (e : ErrCode) : (st.failed e).ecode = e := rfl
@[simp] theorem Status.failed_ovr (e : ErrCode) : (st.failed e).ovr = st.ovr := rfl
@[simp] theorem Status.failed_buserr (e : ErrCode) : (st.failed e).buserr = st.buserr := rfl

@[simp] theorem Status.cleared_busy (a b : Bool) : (st.cleared a b).busy = st.busy := rfl
@[simp] theorem Status.cleared_done (a b : Bool) : (st.cleared a b).done = st.done := rfl
@[simp] theorem Status.cleared_state (a b : Bool) : (st.cleared a b).state = st.state := rfl
@[simp] theorem Status.cleared_err (a b : Bool) : (st.cleared a b).err = st.err := rfl
@[simp] theorem Status.cleared_itv (a b : Bool) : (st.cleared a b).itv = st.itv := rfl
@[simp] theorem Status.cleared_ecode (a b : Bool) : (st.cleared a b).ecode = st.ecode := rfl
@[simp] theorem Status.cleared_ovr (a b : Bool) : (st.cleared a b).ovr = (st.ovr && !a) := rfl
@[simp] theorem Status.cleared_buserr (a b : Bool) : (st.cleared a b).buserr = (st.buserr && !b) := rfl

@[simp] theorem Kpe.issue_status (v : p.Word) : (k.issue v).status = k.status.issued := rfl
@[simp] theorem Kpe.issue_cmd (v : p.Word) : (k.issue v).cmd = v := rfl
@[simp] theorem Kpe.issue_arg0 (v : p.Word) : (k.issue v).arg0 = k.arg0 := rfl
@[simp] theorem Kpe.issue_arg1 (v : p.Word) : (k.issue v).arg1 = k.arg1 := rfl
@[simp] theorem Kpe.issue_arg2 (v : p.Word) : (k.issue v).arg2 = k.arg2 := rfl
@[simp] theorem Kpe.issue_res0 (v : p.Word) : (k.issue v).res0 = k.res0 := rfl
@[simp] theorem Kpe.issue_res1 (v : p.Word) : (k.issue v).res1 = k.res1 := rfl
@[simp] theorem Kpe.issue_res2 (v : p.Word) : (k.issue v).res2 = k.res2 := rfl
@[simp] theorem Kpe.issue_size (v : p.Word) : (k.issue v).size = k.size := rfl
@[simp] theorem Kpe.issue_nreg (v : p.Word) : (k.issue v).nreg = k.nreg := rfl
@[simp] theorem Kpe.issue_variant (v : p.Word) : (k.issue v).variant = k.variant := rfl
@[simp] theorem Kpe.issue_kbits (v : p.Word) : (k.issue v).kbits = k.kbits := rfl
@[simp] theorem Kpe.issue_rshift (v : p.Word) : (k.issue v).rshift = k.rshift := rfl
@[simp] theorem Kpe.issue_rounds (v : p.Word) : (k.issue v).rounds = k.rounds := rfl
@[simp] theorem Kpe.issue_mask (v : p.Word) : (k.issue v).mask = k.mask := rfl
@[simp] theorem Kpe.issue_c (v : p.Word) : (k.issue v).c = k.c := rfl
@[simp] theorem Kpe.issue_cinv (v : p.Word) : (k.issue v).cinv = k.cinv := rfl
@[simp] theorem Kpe.issue_c1 (v : p.Word) : (k.issue v).c1 = k.c1 := rfl
@[simp] theorem Kpe.issue_c1inv (v : p.Word) : (k.issue v).c1inv = k.c1inv := rfl
@[simp] theorem Kpe.issue_c2 (v : p.Word) : (k.issue v).c2 = k.c2 := rfl
@[simp] theorem Kpe.issue_c2inv (v : p.Word) : (k.issue v).c2inv = k.c2inv := rfl
@[simp] theorem Kpe.issue_iter (v : p.Word) : (k.issue v).iter = k.iter := rfl
@[simp] theorem Kpe.issue_k1 (v : p.Word) : (k.issue v).k1 = k.k1 := rfl
@[simp] theorem Kpe.issue_k2 (v : p.Word) : (k.issue v).k2 = k.k2 := rfl
@[simp] theorem Kpe.issue_fwd (v : p.Word) : (k.issue v).fwd = k.fwd := rfl
@[simp] theorem Kpe.issue_inv (v : p.Word) : (k.issue v).inv = k.inv := rfl

@[simp] theorem Kpe.succeed_status : (k.succeed).status = k.status.succeeded := rfl
@[simp] theorem Kpe.succeed_cmd : (k.succeed).cmd = k.cmd := rfl
@[simp] theorem Kpe.succeed_arg0 : (k.succeed).arg0 = k.arg0 := rfl
@[simp] theorem Kpe.succeed_arg1 : (k.succeed).arg1 = k.arg1 := rfl
@[simp] theorem Kpe.succeed_arg2 : (k.succeed).arg2 = k.arg2 := rfl
@[simp] theorem Kpe.succeed_res0 : (k.succeed).res0 = k.res0 := rfl
@[simp] theorem Kpe.succeed_res1 : (k.succeed).res1 = k.res1 := rfl
@[simp] theorem Kpe.succeed_res2 : (k.succeed).res2 = k.res2 := rfl
@[simp] theorem Kpe.succeed_size : (k.succeed).size = k.size := rfl
@[simp] theorem Kpe.succeed_nreg : (k.succeed).nreg = k.nreg := rfl
@[simp] theorem Kpe.succeed_variant : (k.succeed).variant = k.variant := rfl
@[simp] theorem Kpe.succeed_kbits : (k.succeed).kbits = k.kbits := rfl
@[simp] theorem Kpe.succeed_rshift : (k.succeed).rshift = k.rshift := rfl
@[simp] theorem Kpe.succeed_rounds : (k.succeed).rounds = k.rounds := rfl
@[simp] theorem Kpe.succeed_mask : (k.succeed).mask = k.mask := rfl
@[simp] theorem Kpe.succeed_c : (k.succeed).c = k.c := rfl
@[simp] theorem Kpe.succeed_cinv : (k.succeed).cinv = k.cinv := rfl
@[simp] theorem Kpe.succeed_c1 : (k.succeed).c1 = k.c1 := rfl
@[simp] theorem Kpe.succeed_c1inv : (k.succeed).c1inv = k.c1inv := rfl
@[simp] theorem Kpe.succeed_c2 : (k.succeed).c2 = k.c2 := rfl
@[simp] theorem Kpe.succeed_c2inv : (k.succeed).c2inv = k.c2inv := rfl
@[simp] theorem Kpe.succeed_iter : (k.succeed).iter = k.iter := rfl
@[simp] theorem Kpe.succeed_k1 : (k.succeed).k1 = k.k1 := rfl
@[simp] theorem Kpe.succeed_k2 : (k.succeed).k2 = k.k2 := rfl
@[simp] theorem Kpe.succeed_fwd : (k.succeed).fwd = k.fwd := rfl
@[simp] theorem Kpe.succeed_inv : (k.succeed).inv = k.inv := rfl

@[simp] theorem Kpe.fail_status (e : ErrCode) : (k.fail e).status = k.status.failed e := rfl
@[simp] theorem Kpe.fail_cmd (e : ErrCode) : (k.fail e).cmd = k.cmd := rfl
@[simp] theorem Kpe.fail_arg0 (e : ErrCode) : (k.fail e).arg0 = k.arg0 := rfl
@[simp] theorem Kpe.fail_arg1 (e : ErrCode) : (k.fail e).arg1 = k.arg1 := rfl
@[simp] theorem Kpe.fail_arg2 (e : ErrCode) : (k.fail e).arg2 = k.arg2 := rfl
@[simp] theorem Kpe.fail_res0 (e : ErrCode) : (k.fail e).res0 = k.res0 := rfl
@[simp] theorem Kpe.fail_res1 (e : ErrCode) : (k.fail e).res1 = k.res1 := rfl
@[simp] theorem Kpe.fail_res2 (e : ErrCode) : (k.fail e).res2 = k.res2 := rfl
@[simp] theorem Kpe.fail_size (e : ErrCode) : (k.fail e).size = k.size := rfl
@[simp] theorem Kpe.fail_nreg (e : ErrCode) : (k.fail e).nreg = k.nreg := rfl
@[simp] theorem Kpe.fail_variant (e : ErrCode) : (k.fail e).variant = k.variant := rfl
@[simp] theorem Kpe.fail_kbits (e : ErrCode) : (k.fail e).kbits = k.kbits := rfl
@[simp] theorem Kpe.fail_rshift (e : ErrCode) : (k.fail e).rshift = k.rshift := rfl
@[simp] theorem Kpe.fail_rounds (e : ErrCode) : (k.fail e).rounds = k.rounds := rfl
@[simp] theorem Kpe.fail_mask (e : ErrCode) : (k.fail e).mask = k.mask := rfl
@[simp] theorem Kpe.fail_c (e : ErrCode) : (k.fail e).c = k.c := rfl
@[simp] theorem Kpe.fail_cinv (e : ErrCode) : (k.fail e).cinv = k.cinv := rfl
@[simp] theorem Kpe.fail_c1 (e : ErrCode) : (k.fail e).c1 = k.c1 := rfl
@[simp] theorem Kpe.fail_c1inv (e : ErrCode) : (k.fail e).c1inv = k.c1inv := rfl
@[simp] theorem Kpe.fail_c2 (e : ErrCode) : (k.fail e).c2 = k.c2 := rfl
@[simp] theorem Kpe.fail_c2inv (e : ErrCode) : (k.fail e).c2inv = k.c2inv := rfl
@[simp] theorem Kpe.fail_iter (e : ErrCode) : (k.fail e).iter = k.iter := rfl
@[simp] theorem Kpe.fail_k1 (e : ErrCode) : (k.fail e).k1 = k.k1 := rfl
@[simp] theorem Kpe.fail_k2 (e : ErrCode) : (k.fail e).k2 = k.k2 := rfl
@[simp] theorem Kpe.fail_fwd (e : ErrCode) : (k.fail e).fwd = k.fwd := rfl
@[simp] theorem Kpe.fail_inv (e : ErrCode) : (k.fail e).inv = k.inv := rfl

@[simp] theorem Kpe.setResults_status (a b d : p.Word) : (k.setResults a b d).status = k.status := rfl
@[simp] theorem Kpe.setResults_cmd (a b d : p.Word) : (k.setResults a b d).cmd = k.cmd := rfl
@[simp] theorem Kpe.setResults_arg0 (a b d : p.Word) : (k.setResults a b d).arg0 = k.arg0 := rfl
@[simp] theorem Kpe.setResults_arg1 (a b d : p.Word) : (k.setResults a b d).arg1 = k.arg1 := rfl
@[simp] theorem Kpe.setResults_arg2 (a b d : p.Word) : (k.setResults a b d).arg2 = k.arg2 := rfl
@[simp] theorem Kpe.setResults_res0 (a b d : p.Word) : (k.setResults a b d).res0 = a := rfl
@[simp] theorem Kpe.setResults_res1 (a b d : p.Word) : (k.setResults a b d).res1 = b := rfl
@[simp] theorem Kpe.setResults_res2 (a b d : p.Word) : (k.setResults a b d).res2 = d := rfl
@[simp] theorem Kpe.setResults_size (a b d : p.Word) : (k.setResults a b d).size = k.size := rfl
@[simp] theorem Kpe.setResults_nreg (a b d : p.Word) : (k.setResults a b d).nreg = k.nreg := rfl
@[simp] theorem Kpe.setResults_variant (a b d : p.Word) : (k.setResults a b d).variant = k.variant := rfl
@[simp] theorem Kpe.setResults_kbits (a b d : p.Word) : (k.setResults a b d).kbits = k.kbits := rfl
@[simp] theorem Kpe.setResults_rshift (a b d : p.Word) : (k.setResults a b d).rshift = k.rshift := rfl
@[simp] theorem Kpe.setResults_rounds (a b d : p.Word) : (k.setResults a b d).rounds = k.rounds := rfl
@[simp] theorem Kpe.setResults_mask (a b d : p.Word) : (k.setResults a b d).mask = k.mask := rfl
@[simp] theorem Kpe.setResults_c (a b d : p.Word) : (k.setResults a b d).c = k.c := rfl
@[simp] theorem Kpe.setResults_cinv (a b d : p.Word) : (k.setResults a b d).cinv = k.cinv := rfl
@[simp] theorem Kpe.setResults_c1 (a b d : p.Word) : (k.setResults a b d).c1 = k.c1 := rfl
@[simp] theorem Kpe.setResults_c1inv (a b d : p.Word) : (k.setResults a b d).c1inv = k.c1inv := rfl
@[simp] theorem Kpe.setResults_c2 (a b d : p.Word) : (k.setResults a b d).c2 = k.c2 := rfl
@[simp] theorem Kpe.setResults_c2inv (a b d : p.Word) : (k.setResults a b d).c2inv = k.c2inv := rfl
@[simp] theorem Kpe.setResults_iter (a b d : p.Word) : (k.setResults a b d).iter = k.iter := rfl
@[simp] theorem Kpe.setResults_k1 (a b d : p.Word) : (k.setResults a b d).k1 = k.k1 := rfl
@[simp] theorem Kpe.setResults_k2 (a b d : p.Word) : (k.setResults a b d).k2 = k.k2 := rfl
@[simp] theorem Kpe.setResults_fwd (a b d : p.Word) : (k.setResults a b d).fwd = k.fwd := rfl
@[simp] theorem Kpe.setResults_inv (a b d : p.Word) : (k.setResults a b d).inv = k.inv := rfl

@[simp] theorem Kpe.setIterator_status (i : p.Word) (v : Bool) : (k.setIterator i v).status = { k.status with itv := v } := rfl
@[simp] theorem Kpe.setIterator_cmd (i : p.Word) (v : Bool) : (k.setIterator i v).cmd = k.cmd := rfl
@[simp] theorem Kpe.setIterator_arg0 (i : p.Word) (v : Bool) : (k.setIterator i v).arg0 = k.arg0 := rfl
@[simp] theorem Kpe.setIterator_arg1 (i : p.Word) (v : Bool) : (k.setIterator i v).arg1 = k.arg1 := rfl
@[simp] theorem Kpe.setIterator_arg2 (i : p.Word) (v : Bool) : (k.setIterator i v).arg2 = k.arg2 := rfl
@[simp] theorem Kpe.setIterator_res0 (i : p.Word) (v : Bool) : (k.setIterator i v).res0 = k.res0 := rfl
@[simp] theorem Kpe.setIterator_res1 (i : p.Word) (v : Bool) : (k.setIterator i v).res1 = k.res1 := rfl
@[simp] theorem Kpe.setIterator_res2 (i : p.Word) (v : Bool) : (k.setIterator i v).res2 = k.res2 := rfl
@[simp] theorem Kpe.setIterator_size (i : p.Word) (v : Bool) : (k.setIterator i v).size = k.size := rfl
@[simp] theorem Kpe.setIterator_nreg (i : p.Word) (v : Bool) : (k.setIterator i v).nreg = k.nreg := rfl
@[simp] theorem Kpe.setIterator_variant (i : p.Word) (v : Bool) : (k.setIterator i v).variant = k.variant := rfl
@[simp] theorem Kpe.setIterator_kbits (i : p.Word) (v : Bool) : (k.setIterator i v).kbits = k.kbits := rfl
@[simp] theorem Kpe.setIterator_rshift (i : p.Word) (v : Bool) : (k.setIterator i v).rshift = k.rshift := rfl
@[simp] theorem Kpe.setIterator_rounds (i : p.Word) (v : Bool) : (k.setIterator i v).rounds = k.rounds := rfl
@[simp] theorem Kpe.setIterator_mask (i : p.Word) (v : Bool) : (k.setIterator i v).mask = k.mask := rfl
@[simp] theorem Kpe.setIterator_c (i : p.Word) (v : Bool) : (k.setIterator i v).c = k.c := rfl
@[simp] theorem Kpe.setIterator_cinv (i : p.Word) (v : Bool) : (k.setIterator i v).cinv = k.cinv := rfl
@[simp] theorem Kpe.setIterator_c1 (i : p.Word) (v : Bool) : (k.setIterator i v).c1 = k.c1 := rfl
@[simp] theorem Kpe.setIterator_c1inv (i : p.Word) (v : Bool) : (k.setIterator i v).c1inv = k.c1inv := rfl
@[simp] theorem Kpe.setIterator_c2 (i : p.Word) (v : Bool) : (k.setIterator i v).c2 = k.c2 := rfl
@[simp] theorem Kpe.setIterator_c2inv (i : p.Word) (v : Bool) : (k.setIterator i v).c2inv = k.c2inv := rfl
@[simp] theorem Kpe.setIterator_iter (i : p.Word) (v : Bool) : (k.setIterator i v).iter = i := rfl
@[simp] theorem Kpe.setIterator_k1 (i : p.Word) (v : Bool) : (k.setIterator i v).k1 = k.k1 := rfl
@[simp] theorem Kpe.setIterator_k2 (i : p.Word) (v : Bool) : (k.setIterator i v).k2 = k.k2 := rfl
@[simp] theorem Kpe.setIterator_fwd (i : p.Word) (v : Bool) : (k.setIterator i v).fwd = k.fwd := rfl
@[simp] theorem Kpe.setIterator_inv (i : p.Word) (v : Bool) : (k.setIterator i v).inv = k.inv := rfl

@[simp] theorem Kpe.setState_status (c : ConfigState) : (k.setState c).status = { k.status with state := c } := rfl
@[simp] theorem Kpe.setState_cmd (c : ConfigState) : (k.setState c).cmd = k.cmd := rfl
@[simp] theorem Kpe.setState_arg0 (c : ConfigState) : (k.setState c).arg0 = k.arg0 := rfl
@[simp] theorem Kpe.setState_arg1 (c : ConfigState) : (k.setState c).arg1 = k.arg1 := rfl
@[simp] theorem Kpe.setState_arg2 (c : ConfigState) : (k.setState c).arg2 = k.arg2 := rfl
@[simp] theorem Kpe.setState_res0 (c : ConfigState) : (k.setState c).res0 = k.res0 := rfl
@[simp] theorem Kpe.setState_res1 (c : ConfigState) : (k.setState c).res1 = k.res1 := rfl
@[simp] theorem Kpe.setState_res2 (c : ConfigState) : (k.setState c).res2 = k.res2 := rfl
@[simp] theorem Kpe.setState_size (c : ConfigState) : (k.setState c).size = k.size := rfl
@[simp] theorem Kpe.setState_nreg (c : ConfigState) : (k.setState c).nreg = k.nreg := rfl
@[simp] theorem Kpe.setState_variant (c : ConfigState) : (k.setState c).variant = k.variant := rfl
@[simp] theorem Kpe.setState_kbits (c : ConfigState) : (k.setState c).kbits = k.kbits := rfl
@[simp] theorem Kpe.setState_rshift (c : ConfigState) : (k.setState c).rshift = k.rshift := rfl
@[simp] theorem Kpe.setState_rounds (c : ConfigState) : (k.setState c).rounds = k.rounds := rfl
@[simp] theorem Kpe.setState_mask (c : ConfigState) : (k.setState c).mask = k.mask := rfl
@[simp] theorem Kpe.setState_c (c : ConfigState) : (k.setState c).c = k.c := rfl
@[simp] theorem Kpe.setState_cinv (c : ConfigState) : (k.setState c).cinv = k.cinv := rfl
@[simp] theorem Kpe.setState_c1 (c : ConfigState) : (k.setState c).c1 = k.c1 := rfl
@[simp] theorem Kpe.setState_c1inv (c : ConfigState) : (k.setState c).c1inv = k.c1inv := rfl
@[simp] theorem Kpe.setState_c2 (c : ConfigState) : (k.setState c).c2 = k.c2 := rfl
@[simp] theorem Kpe.setState_c2inv (c : ConfigState) : (k.setState c).c2inv = k.c2inv := rfl
@[simp] theorem Kpe.setState_iter (c : ConfigState) : (k.setState c).iter = k.iter := rfl
@[simp] theorem Kpe.setState_k1 (c : ConfigState) : (k.setState c).k1 = k.k1 := rfl
@[simp] theorem Kpe.setState_k2 (c : ConfigState) : (k.setState c).k2 = k.k2 := rfl
@[simp] theorem Kpe.setState_fwd (c : ConfigState) : (k.setState c).fwd = k.fwd := rfl
@[simp] theorem Kpe.setState_inv (c : ConfigState) : (k.setState c).inv = k.inv := rfl

@[simp] theorem Kpe.busError_status : (k.busError).status = { k.status with buserr := true } := rfl
@[simp] theorem Kpe.busError_cmd : (k.busError).cmd = k.cmd := rfl
@[simp] theorem Kpe.busError_arg0 : (k.busError).arg0 = k.arg0 := rfl
@[simp] theorem Kpe.busError_arg1 : (k.busError).arg1 = k.arg1 := rfl
@[simp] theorem Kpe.busError_arg2 : (k.busError).arg2 = k.arg2 := rfl
@[simp] theorem Kpe.busError_res0 : (k.busError).res0 = k.res0 := rfl
@[simp] theorem Kpe.busError_res1 : (k.busError).res1 = k.res1 := rfl
@[simp] theorem Kpe.busError_res2 : (k.busError).res2 = k.res2 := rfl
@[simp] theorem Kpe.busError_size : (k.busError).size = k.size := rfl
@[simp] theorem Kpe.busError_nreg : (k.busError).nreg = k.nreg := rfl
@[simp] theorem Kpe.busError_variant : (k.busError).variant = k.variant := rfl
@[simp] theorem Kpe.busError_kbits : (k.busError).kbits = k.kbits := rfl
@[simp] theorem Kpe.busError_rshift : (k.busError).rshift = k.rshift := rfl
@[simp] theorem Kpe.busError_rounds : (k.busError).rounds = k.rounds := rfl
@[simp] theorem Kpe.busError_mask : (k.busError).mask = k.mask := rfl
@[simp] theorem Kpe.busError_c : (k.busError).c = k.c := rfl
@[simp] theorem Kpe.busError_cinv : (k.busError).cinv = k.cinv := rfl
@[simp] theorem Kpe.busError_c1 : (k.busError).c1 = k.c1 := rfl
@[simp] theorem Kpe.busError_c1inv : (k.busError).c1inv = k.c1inv := rfl
@[simp] theorem Kpe.busError_c2 : (k.busError).c2 = k.c2 := rfl
@[simp] theorem Kpe.busError_c2inv : (k.busError).c2inv = k.c2inv := rfl
@[simp] theorem Kpe.busError_iter : (k.busError).iter = k.iter := rfl
@[simp] theorem Kpe.busError_k1 : (k.busError).k1 = k.k1 := rfl
@[simp] theorem Kpe.busError_k2 : (k.busError).k2 = k.k2 := rfl
@[simp] theorem Kpe.busError_fwd : (k.busError).fwd = k.fwd := rfl
@[simp] theorem Kpe.busError_inv : (k.busError).inv = k.inv := rfl

@[simp] theorem Kpe.overrun_status : (k.overrun).status = { k.status with ovr := true } := rfl
@[simp] theorem Kpe.overrun_cmd : (k.overrun).cmd = k.cmd := rfl
@[simp] theorem Kpe.overrun_arg0 : (k.overrun).arg0 = k.arg0 := rfl
@[simp] theorem Kpe.overrun_arg1 : (k.overrun).arg1 = k.arg1 := rfl
@[simp] theorem Kpe.overrun_arg2 : (k.overrun).arg2 = k.arg2 := rfl
@[simp] theorem Kpe.overrun_res0 : (k.overrun).res0 = k.res0 := rfl
@[simp] theorem Kpe.overrun_res1 : (k.overrun).res1 = k.res1 := rfl
@[simp] theorem Kpe.overrun_res2 : (k.overrun).res2 = k.res2 := rfl
@[simp] theorem Kpe.overrun_size : (k.overrun).size = k.size := rfl
@[simp] theorem Kpe.overrun_nreg : (k.overrun).nreg = k.nreg := rfl
@[simp] theorem Kpe.overrun_variant : (k.overrun).variant = k.variant := rfl
@[simp] theorem Kpe.overrun_kbits : (k.overrun).kbits = k.kbits := rfl
@[simp] theorem Kpe.overrun_rshift : (k.overrun).rshift = k.rshift := rfl
@[simp] theorem Kpe.overrun_rounds : (k.overrun).rounds = k.rounds := rfl
@[simp] theorem Kpe.overrun_mask : (k.overrun).mask = k.mask := rfl
@[simp] theorem Kpe.overrun_c : (k.overrun).c = k.c := rfl
@[simp] theorem Kpe.overrun_cinv : (k.overrun).cinv = k.cinv := rfl
@[simp] theorem Kpe.overrun_c1 : (k.overrun).c1 = k.c1 := rfl
@[simp] theorem Kpe.overrun_c1inv : (k.overrun).c1inv = k.c1inv := rfl
@[simp] theorem Kpe.overrun_c2 : (k.overrun).c2 = k.c2 := rfl
@[simp] theorem Kpe.overrun_c2inv : (k.overrun).c2inv = k.c2inv := rfl
@[simp] theorem Kpe.overrun_iter : (k.overrun).iter = k.iter := rfl
@[simp] theorem Kpe.overrun_k1 : (k.overrun).k1 = k.k1 := rfl
@[simp] theorem Kpe.overrun_k2 : (k.overrun).k2 = k.k2 := rfl
@[simp] theorem Kpe.overrun_fwd : (k.overrun).fwd = k.fwd := rfl
@[simp] theorem Kpe.overrun_inv : (k.overrun).inv = k.inv := rfl

@[simp] theorem State.hardReset_params (b : Bool) : (s.hardReset b).params = s.params := rfl
@[simp] theorem State.hardReset_kpe (b : Bool) : (s.hardReset b).kpe = Kpe.reset s.params := rfl
@[simp] theorem State.hardReset_rst (b : Bool) : (s.hardReset b).rst = b := rfl
@[simp] theorem State.hardReset_inputs (b : Bool) : (s.hardReset b).inputs = s.inputs := rfl
@[simp] theorem State.hardReset_rdata (b : Bool) : (s.hardReset b).rdata = s.rdata := rfl

end Sys2Proof.Machine
end

