-- ==== Sys2Proof/Laws/Commands.lean ====
section
/-! SUPPORT. What each command's reply can be, said once per shared operation: a success with its result under its conditions,
or a failure with its code and the check that raised it. -/

namespace Sys2Proof.Machine

open Sys2Proof.Config

variable {p : Params} {k k' : Kpe p} {e : ErrCode}

@[simp] theorem isEven_iff {w : Nat} (v : BitVec w) : isEven v = true ↔ v.getLsbD 0 = false := by simp [isEven]

@[simp] theorem tableIndexOk_iff {idx : Nat} : k.tableIndexOk idx = true ↔ idx < k.nreg.toNat := by
  simp [Kpe.tableIndexOk]

@[simp] theorem tableIndexOk_eq_false {idx : Nat} : k.tableIndexOk idx = false ↔ k.nreg.toNat ≤ idx := by
  simp [Kpe.tableIndexOk]

theorem keyIndexOk_iff {sel : KeySel} {idx : Nat} :
    k.keyIndexOk sel idx = true ↔ idx < k.rounds.toNat ∧ (sel = .k2 → k.variant = .fullw) := by
  cases sel <;> simp [Kpe.keyIndexOk]

theorem configure_ok (h : configure k = .ok k') :
    0 ≤ k.arg1.toInt ∧
      resolveRounds (classify k.arg0).1 (classify k.arg0).2.toNat k.arg1.toNat ≤ p.rMax ∧
      k' = k.configured (classify k.arg0).1 (classify k.arg0).2
        (resolveRounds (classify k.arg0).1 (classify k.arg0).2.toNat k.arg1.toNat) := by
  simp only [configure] at h
  split at h
  · cases h
  · split at h
    · cases h
    · cases h
      exact ⟨by simpa [Kpe.roundsOperand] using ‹¬k.roundsOperand < 0›, by omega, rfl⟩

theorem configure_fail (h : configure k = .fail e) : e = .rounds := by
  simp only [configure] at h
  split at h
  · cases h; rfl
  · split at h
    · cases h; rfl
    · cases h

theorem writeMultiplier_ok {sel : MulSel} (h : writeMultiplier k sel = .ok k') :
    k.status.state ≠ .ready ∧ k.arg0.getLsbD 0 = true ∧ k' = k.setMultiplier sel k.arg0 := by
  simp only [writeMultiplier] at h
  split at h
  · cases h
  · split at h
    · cases h
    · cases h
      exact ⟨‹_›, by simpa using ‹¬isEven k.arg0 = true›, rfl⟩

theorem writeMultiplier_fail {sel : MulSel} (h : writeMultiplier k sel = .fail e) :
    (e = .locked ∧ k.status.state = .ready) ∨ (e = .even ∧ k.arg0.getLsbD 0 = false) := by
  simp only [writeMultiplier] at h
  split at h
  · cases h; exact .inl ⟨rfl, ‹_›⟩
  · split at h
    · cases h; exact .inr ⟨rfl, by simpa using ‹isEven k.arg0 = true›⟩
    · cases h

theorem writeKey_ok {sel : KeySel} {idx : Nat} (h : writeKey k sel idx = .ok k') :
    k.status.state = .loading ∧ k.keyIndexOk sel idx = true ∧ k' = k.setKey sel idx k.arg0 := by
  simp only [writeKey] at h
  split at h
  · cases h
  · split at h
    · cases h
    · split at h
      · cases h
      · cases h
        refine ⟨?_, by simp_all, rfl⟩
        cases hs : k.status.state <;> simp_all

theorem writeKey_fail {sel : KeySel} {idx : Nat} (h : writeKey k sel idx = .fail e) :
    (e = .state ∧ k.status.state = .unconf) ∨ (e = .locked ∧ k.status.state = .ready) ∨
      (e = .index ∧ k.keyIndexOk sel idx = false) := by
  simp only [writeKey] at h
  split at h
  · cases h; exact .inl ⟨rfl, ‹_›⟩
  · split at h
    · cases h; exact .inr (.inl ⟨rfl, ‹_›⟩)
    · split at h
      · cases h; exact .inr (.inr ⟨rfl, by simp_all⟩)
      · cases h

theorem readKey_ok {sel : KeySel} {idx : Nat} (h : readKey k sel idx = .ok k') :
    k.status.state ≠ .unconf ∧ k.keyIndexOk sel idx = true ∧ k' = { k with res0 := ramGet (k.keyRam sel) idx } := by
  simp only [readKey] at h
  split at h
  · cases h
  · split at h
    · cases h
    · cases h; exact ⟨‹_›, by simp_all, rfl⟩

theorem readKey_fail {sel : KeySel} {idx : Nat} (h : readKey k sel idx = .fail e) :
    (e = .state ∧ k.status.state = .unconf) ∨ (e = .index ∧ k.keyIndexOk sel idx = false) := by
  simp only [readKey] at h
  split at h
  · cases h; exact .inl ⟨rfl, ‹_›⟩
  · split at h
    · cases h; exact .inr ⟨rfl, by simp_all⟩
    · cases h

theorem writeTable_ok {idx : Nat} (h : writeTable k idx = .ok k') :
    k.status.state = .loading ∧ k.variant = .table ∧ idx < k.nreg.toNat ∧
      k' = { k with fwd := ramSet k.fwd idx k.arg0 } := by
  simp only [writeTable] at h
  split at h
  · cases h
  · split at h
    · cases h
    · split at h
      · cases h
      · split at h
        · cases h
        · cases h
          refine ⟨?_, by simp_all, by simp_all, rfl⟩
          cases hs : k.status.state <;> simp_all

theorem writeTable_fail {idx : Nat} (h : writeTable k idx = .fail e) :
    (e = .state ∧ (k.status.state = .unconf ∨ k.variant ≠ .table)) ∨ (e = .locked ∧ k.status.state = .ready) ∨
      (e = .index ∧ k.nreg.toNat ≤ idx) := by
  simp only [writeTable] at h
  split at h
  · cases h; exact .inl ⟨rfl, .inl ‹_›⟩
  · split at h
    · cases h; exact .inr (.inl ⟨rfl, ‹_›⟩)
    · split at h
      · cases h; exact .inl ⟨rfl, .inr ‹_›⟩
      · split at h
        · cases h; exact .inr (.inr ⟨rfl, by simp_all⟩)
        · cases h

theorem readTable_ok {sel : TableSel} {idx : Nat} (h : readTable k sel idx = .ok k') :
    k.status.state ≠ .unconf ∧ k.variant = .table ∧ idx < k.nreg.toNat ∧
      k' = { k with res0 := ramGet (k.tableRam sel) idx } := by
  simp only [readTable] at h
  split at h
  · cases h
  · split at h
    · cases h
    · split at h
      · cases h
      · cases h; exact ⟨‹_›, by simp_all, by simp_all, rfl⟩

theorem readTable_fail {sel : TableSel} {idx : Nat} (h : readTable k sel idx = .fail e) :
    (e = .state ∧ (k.status.state = .unconf ∨ k.variant ≠ .table)) ∨ (e = .index ∧ k.nreg.toNat ≤ idx) := by
  simp only [readTable] at h
  split at h
  · cases h; exact .inl ⟨rfl, .inl ‹_›⟩
  · split at h
    · cases h; exact .inl ⟨rfl, .inr ‹_›⟩
    · split at h
      · cases h; exact .inr ⟨rfl, by simp_all⟩
      · cases h

theorem tableInRange_iff : k.tableInRange = true ↔ ∀ i, i < k.nreg.toNat → ramGet k.fwd i < k.nreg := by
  simp [Kpe.tableInRange]

theorem tableDistinct_iff :
    k.tableDistinct = true ↔ ∀ i j, i < j → j < k.nreg.toNat → ramGet k.fwd i ≠ ramGet k.fwd j := by
  simp only [Kpe.tableDistinct, List.all_eq_true, List.mem_range, decide_eq_true_eq]
  exact ⟨fun h i j hij hj => h j hj i hij, fun h j hj i hij => h i j hij hj⟩

theorem armKpe_ok (h : armKpe k = .ok k') :
    k.status.state ≠ .unconf ∧
      ((k.variant = .table ∧ k.tableInRange = true ∧ k.tableDistinct = true ∧
          k' = { k with inv := k.buildInverse k.nreg.toNat }.setState .ready) ∨
        (k.variant ≠ .table ∧ k' = k.setState .ready)) := by
  simp only [armKpe] at h
  split at h
  · cases h
  · refine ⟨‹_›, ?_⟩
    split at h
    · split at h
      · cases h
      · split at h
        · cases h
        · cases h; exact .inl ⟨‹_›, by simp_all, by simp_all, rfl⟩
    · cases h; exact .inr ⟨‹_›, rfl⟩

theorem armKpe_fail (h : armKpe k = .fail e) :
    (e = .state ∧ k.status.state = .unconf) ∨
      (e = .table ∧ k.variant = .table ∧ ¬ (k.tableInRange = true ∧ k.tableDistinct = true)) := by
  simp only [armKpe] at h
  split at h
  · cases h; exact .inl ⟨rfl, ‹_›⟩
  · split at h
    · split at h
      · cases h; exact .inr ⟨rfl, ‹_›, by simp_all⟩
      · split at h
        · cases h; exact .inr ⟨rfl, ‹_›, by simp_all⟩
        · cases h
    · cases h

/-- What ENC and DEC do with the datapath's answer. -/
theorem withValue_cases (r : Reply (p.Word × p.Word)) :
    (∃ y n, r = .ok (y, n) ∧ k.withValue r = .ok (k.setResults y n 0)) ∨
      (∃ e, r = .fail e ∧ k.withValue r = .fail e) ∨ (∃ f, r = .stop f ∧ k.withValue r = .stop f) := by
  rcases r with ⟨y, n⟩ | e | f
  · exact .inl ⟨y, n, rfl, rfl⟩
  · exact .inr (.inl ⟨e, rfl, rfl⟩)
  · exact .inr (.inr ⟨f, rfl, rfl⟩)

/-- The datapath fails only with WALK, and only on a bounded variant. -/
theorem permute_fail {x : p.Word} (h : permute k x = .fail e) :
    e = .walk ∧ walk k (passFwd k) x = none ∧ (k.variant = .bhalf ∨ k.variant = .bfull) := by
  simp only [permute, walkReply] at h
  split at h
  · cases h
  · cases h
  · split at h
    · cases h
    · cases h; exact ⟨rfl, ‹_›, .inl ‹_›⟩
  · split at h
    · cases h
    · cases h; exact ⟨rfl, ‹_›, .inr ‹_›⟩
  · cases h

theorem unpermute_fail {y : p.Word} (h : unpermute k y = .fail e) :
    e = .walk ∧ walk k (passInv k) y = none ∧ (k.variant = .bhalf ∨ k.variant = .bfull) := by
  simp only [unpermute, walkReply] at h
  split at h
  · cases h
  · cases h
  · split at h
    · cases h
    · cases h; exact ⟨rfl, ‹_›, .inl ‹_›⟩
  · split at h
    · cases h
    · cases h; exact ⟨rfl, ‹_›, .inr ‹_›⟩
  · cases h

theorem encodeCommand_ok {chk : Bool} (h : encodeCommand k chk = .ok k') :
    k.status.state = .ready ∧ k.outOfDomain chk k.arg0 = false ∧
      ∃ y n, permute k k.arg0 = .ok (y, n) ∧ k' = k.setResults y n 0 := by
  simp only [encodeCommand] at h
  split at h
  · cases h
  · split at h
    · cases h
    · refine ⟨by simp_all, by simp_all, ?_⟩
      rcases withValue_cases (k := k) (permute k k.arg0) with ⟨y, n, h1, h2⟩ | ⟨e, h1, h2⟩ | ⟨f, h1, h2⟩ <;>
        rw [h2] at h <;> cases h
      exact ⟨y, n, h1, rfl⟩

theorem encodeCommand_fail {chk : Bool} (h : encodeCommand k chk = .fail e) :
    (e = .state ∧ k.status.state ≠ .ready) ∨ (e = .domain ∧ k.outOfDomain chk k.arg0 = true) ∨
      (e = .walk ∧ k.status.state = .ready ∧ k.outOfDomain chk k.arg0 = false ∧ permute k k.arg0 = .fail .walk) := by
  simp only [encodeCommand] at h
  split at h
  · cases h; exact .inl ⟨rfl, ‹_›⟩
  · split at h
    · cases h; exact .inr (.inl ⟨rfl, ‹_›⟩)
    · rcases withValue_cases (k := k) (permute k k.arg0) with ⟨y, n, h1, h2⟩ | ⟨e, h1, h2⟩ | ⟨f, h1, h2⟩ <;>
        rw [h2] at h <;> cases h
      obtain rfl := (permute_fail h1).1
      exact .inr (.inr ⟨rfl, by simp_all, by simp_all, h1⟩)

theorem decodeCommand_ok {chk : Bool} (h : decodeCommand k chk = .ok k') :
    k.status.state = .ready ∧ k.outOfDomain chk k.arg0 = false ∧
      ∃ y n, unpermute k k.arg0 = .ok (y, n) ∧ k' = k.setResults y n 0 := by
  simp only [decodeCommand] at h
  split at h
  · cases h
  · split at h
    · cases h
    · refine ⟨by simp_all, by simp_all, ?_⟩
      rcases withValue_cases (k := k) (unpermute k k.arg0) with ⟨y, n, h1, h2⟩ | ⟨e, h1, h2⟩ | ⟨f, h1, h2⟩ <;>
        rw [h2] at h <;> cases h
      exact ⟨y, n, h1, rfl⟩

theorem decodeCommand_fail {chk : Bool} (h : decodeCommand k chk = .fail e) :
    (e = .state ∧ k.status.state ≠ .ready) ∨ (e = .domain ∧ k.outOfDomain chk k.arg0 = true) ∨
      (e = .walk ∧ k.status.state = .ready ∧ k.outOfDomain chk k.arg0 = false ∧ unpermute k k.arg0 = .fail .walk) := by
  simp only [decodeCommand] at h
  split at h
  · cases h; exact .inl ⟨rfl, ‹_›⟩
  · split at h
    · cases h; exact .inr (.inl ⟨rfl, ‹_›⟩)
    · rcases withValue_cases (k := k) (unpermute k k.arg0) with ⟨y, n, h1, h2⟩ | ⟨e, h1, h2⟩ | ⟨f, h1, h2⟩ <;>
        rw [h2] at h <;> cases h
      obtain rfl := (unpermute_fail h1).1
      exact .inr (.inr ⟨rfl, by simp_all, by simp_all, h1⟩)

theorem startIterator_ok (h : startIterator k = .ok k') :
    k.status.state = .ready ∧
      ((k.variant = .fullw ∧ k' = k.setIterator k.arg0 true) ∨
        (k.variant ≠ .fullw ∧ k.arg0 ≤ k.nreg ∧ k' = k.setIterator k.arg0 (decide (k.arg0 < k.nreg)))) := by
  simp only [startIterator] at h
  split at h
  · cases h
  · refine ⟨by simp_all, ?_⟩
    split at h
    · cases h; exact .inl ⟨‹_›, rfl⟩
    · split at h
      · cases h
      · cases h; exact .inr ⟨‹_›, not_not.mp ‹_›, rfl⟩

theorem startIterator_fail (h : startIterator k = .fail e) :
    (e = .state ∧ k.status.state ≠ .ready) ∨ (e = .domain ∧ k.variant ≠ .fullw ∧ ¬ k.arg0 ≤ k.nreg) := by
  simp only [startIterator] at h
  split at h
  · cases h; exact .inl ⟨rfl, ‹_›⟩
  · split at h
    · cases h
    · split at h
      · cases h; exact .inr ⟨rfl, ‹_›, ‹_›⟩
      · cases h

theorem nextElement_ok (h : nextElement k = .ok k') :
    k.status.state = .ready ∧ k.status.itv = true ∧
      ∃ y n, permute k k.iter = .ok (y, n) ∧ k' = (k.setResults y n k.iter).advanceIterator k.iter := by
  simp only [nextElement] at h
  split at h
  · cases h
  · split at h
    · cases h
    · split at h <;> cases h
      exact ⟨by simp_all, by simp_all, _, _, ‹_›, rfl⟩

theorem nextElement_fail (h : nextElement k = .fail e) :
    (e = .state ∧ k.status.state ≠ .ready) ∨ (e = .nosuch ∧ k.status.itv = false) ∨
      (e = .walk ∧ k.status.state = .ready ∧ k.status.itv = true ∧ permute k k.iter = .fail .walk) := by
  simp only [nextElement] at h
  split at h
  · cases h; exact .inl ⟨rfl, ‹_›⟩
  · split at h
    · cases h; exact .inr (.inl ⟨rfl, ‹_›⟩)
    · split at h <;> cases h
      rename_i h1
      obtain rfl := (permute_fail h1).1
      exact .inr (.inr ⟨rfl, by simp_all, by simp_all, h1⟩)

/-- The iterator's move changes ITER and ITV only. -/
theorem advanceIterator_eq (i : p.Word) : ∃ j v, k.advanceIterator i = k.setIterator j v := by
  simp only [Kpe.advanceIterator]
  split
  · split
    · exact ⟨_, _, rfl⟩
    · exact ⟨_, _, rfl⟩
  · exact ⟨_, _, rfl⟩

theorem blockCommand_cases (k : Kpe p) :
    (k.arg0 = 0 ∧ blockCommand k = .fail .arg) ∨
      (k.arg0 ≠ 0 ∧ blockCommand k = .ok (k.setResults (block k.arg0).mask (BitVec.ofNat p.w (block k.arg0).kbits)
        (BitVec.ofNat p.w (block k.arg0).rshift))) := by
  simp only [blockCommand]
  split
  · exact .inl ⟨‹_›, rfl⟩
  · exact .inr ⟨‹_›, rfl⟩

theorem invoddCommand_cases (k : Kpe p) :
    (k.arg0.getLsbD 0 = false ∧ invoddCommand k = .fail .even) ∨
      (k.arg0.getLsbD 0 = true ∧ invoddCommand k = .ok (k.setResults (invOdd k.arg0 k.arg1) 0 0)) := by
  simp only [invoddCommand]
  split
  · exact .inl ⟨by simpa using ‹isEven k.arg0 = true›, rfl⟩
  · exact .inr ⟨by simpa using ‹¬isEven k.arg0 = true›, rfl⟩

theorem invxsCommand_cases (k : Kpe p) :
    ((k.arg2.toNat = 0 ∨ k.arg2.toNat > p.w ∨ k.arg1.toNat = 0) ∧ invxsCommand k = .fail .arg) ∨
      (1 ≤ k.arg2.toNat ∧ k.arg2.toNat ≤ p.w ∧ 1 ≤ k.arg1.toNat ∧
        invxsCommand k = .ok (k.setResults (invXorShift k.arg0 k.arg1.toNat k.arg2.toNat)
          (BitVec.ofNat p.w (invXorShiftIterations k.arg0 k.arg1.toNat k.arg2.toNat)) 0)) := by
  simp only [invxsCommand]
  split
  · exact .inl ⟨by omega, rfl⟩
  · split
    · exact .inl ⟨by omega, rfl⟩
    · exact .inr ⟨by omega, by omega, by omega, rfl⟩

end Sys2Proof.Machine
end

