-- ==== Sys2Proof/Laws/Loaded.lean ====
section
/-! SUPPORT. The last sentence of R112 (40_config.md): the results of ENC, DEC and ITNEXT in READY depend only on the loaded
values. The registers derived from them (NREG, MASK, KBITS, RSHIFT, the inverses, INV) agree because the invariant holds. -/

namespace Sys2Proof.Machine

open Sys2Proof.Config

variable {p : Params} {k k' : Kpe p}

/-- What READY and the invariant derive from the loaded values. -/
structure Kpe.SameDerived (k k' : Kpe p) : Prop where
  variant : k.variant = k'.variant
  nreg : k.nreg = k'.nreg
  mask : k.mask = k'.mask
  kbits : k.kbits = k'.kbits
  rshift : k.rshift = k'.rshift
  cinv : k.cinv = k'.cinv
  c1inv : k.c1inv = k'.c1inv
  c2inv : k.c2inv = k'.c2inv
  inv : k.variant = .table → ∀ y, y < k.nreg.toNat → ramGet k.inv y = ramGet k'.inv y

/-- An injective table on [0, n) reaches every value below n. -/
theorem exists_index_of_injective {n : Nat} (f : Nat → Nat) (hr : ∀ i, i < n → f i < n)
    (hd : ∀ i j, i < j → j < n → f i ≠ f j) {y : Nat} (hy : y < n) : ∃ i, i < n ∧ f i = y := by
  let g : Fin n → Fin n := fun i => ⟨f i, hr i i.isLt⟩
  have hg : Function.Injective g := by
    intro i j hij
    have h : f i = f j := congrArg Fin.val hij
    by_contra hne
    rcases Nat.lt_or_gt_of_ne (fun h' => hne (Fin.ext h')) with h' | h'
    · exact hd _ _ h' j.isLt h
    · exact hd _ _ h' i.isLt h.symm
  obtain ⟨i, hi⟩ := (Finite.injective_iff_surjective.mp hg) ⟨y, hy⟩
  exact ⟨i, i.isLt, congrArg Fin.val hi⟩

/-- In READY the Table's FWD reaches every value below N. -/
theorem Kpe.TableInv.surjective (h : k.TableInv) {y : Nat} (hy : y < k.nreg.toNat) :
    ∃ i, i < k.nreg.toNat ∧ (ramGet k.fwd i).toNat = y :=
  exists_index_of_injective (fun i => (ramGet k.fwd i).toNat) (fun i hi => h.inRange i hi)
    (fun i j hij hj he => h.distinct i j hij hj (BitVec.eq_of_toNat_eq he)) hy

theorem Kpe.Inv.variant_ne_none (h : k.Inv) (hr : k.status.state = .ready) : k.variant ≠ .none := by
  intro hv
  have := h.domain.noneIffUnconf.mp hv
  rw [hr] at this
  cases this

theorem Kpe.SameLoaded.derived (h : k.SameLoaded k') (hi : k.Inv) (hi' : k'.Inv) (hr : k.status.state = .ready)
    (hr' : k'.status.state = .ready) : k.SameDerived k' := by
  obtain ⟨hc, hm, hk, hs⟩ := hi.domain.configured (hi.variant_ne_none hr)
  obtain ⟨hc', hm', hk', hs'⟩ := hi'.domain.configured (hi'.variant_ne_none hr')
  have hvn : (k.variant, k.nreg) = (k'.variant, k'.nreg) := by rw [← hc, ← hc', h.size]
  have hv : k.variant = k'.variant := congrArg Prod.fst hvn
  have hn : k.nreg = k'.nreg := congrArg Prod.snd hvn
  have hmask : k.mask = k'.mask := by rw [hm, hm', hv, hn]
  refine ⟨hv, hn, hmask, by rw [hk, hk', hv, hn], by rw [hs, hs', hv, hn], ?_, ?_, ?_, ?_⟩
  · rw [hi.multipliers.cinvEq, hi'.multipliers.cinvEq, h.c, hmask]
  · rw [hi.multipliers.c1invEq, hi'.multipliers.c1invEq, h.c1]
  · rw [hi.multipliers.c2invEq, hi'.multipliers.c2invEq, h.c2]
  · intro ht y hy
    have htab := hi.table hr ht
    have htab' := hi'.table hr' (hv ▸ ht)
    obtain ⟨i, hlt, rfl⟩ := htab.surjective hy
    rw [htab.inverse i hlt, h.fwd ht i hlt, htab'.inverse i (hn ▸ hlt)]

/-! ### The passes -/

theorem roundF_loaded (h : k.SameLoaded k') (d : k.SameDerived k') {r : Nat} (hr : r < k.rounds.toNat) (x : p.Word) :
    roundF k x r = roundF k' x r := by
  simp only [roundF, h.c, h.k1 r hr, d.mask, d.rshift]

theorem roundG_loaded (h : k.SameLoaded k') (d : k.SameDerived k') {r : Nat} (hr : r < k.rounds.toNat) (x : p.Word) :
    roundG k x r = roundG k' x r := by
  simp only [roundG, h.k1 r hr, d.mask, d.rshift, d.kbits, d.cinv]

theorem fwRound_loaded (h : k.SameLoaded k') (hv : k.variant = .fullw) {r : Nat} (hr : r < k.rounds.toNat) (x : p.Word) :
    fwRound k x r = fwRound k' x r := by
  simp only [fwRound, h.k1 r hr, h.k2 hv r hr, h.c1, h.c2]

theorem fwInvRound_loaded (h : k.SameLoaded k') (d : k.SameDerived k') (hv : k.variant = .fullw) {r : Nat}
    (hr : r < k.rounds.toNat) (x : p.Word) :
    fwInvRound k x r = fwInvRound k' x r := by
  simp only [fwInvRound, h.k1 r hr, h.k2 hv r hr, d.c1inv, d.c2inv]

theorem passFwd_loaded (h : k.SameLoaded k') (d : k.SameDerived k') : passFwd k = passFwd k' := by
  have hn : ∀ n, n ≤ k.rounds.toNat → ∀ x, fwdRounds k n x = fwdRounds k' n x := by
    intro n
    induction n with
    | zero => intro _ _; rfl
    | succ n ih => intro hn x; rw [fwdRounds, fwdRounds, ih (by omega), roundF_loaded h d (by omega)]
  funext x
  rw [passFwd, passFwd, hn _ le_rfl, h.rounds]

theorem passInv_loaded (h : k.SameLoaded k') (d : k.SameDerived k') : passInv k = passInv k' := by
  have hn : ∀ n, n ≤ k.rounds.toNat → ∀ x, invRounds k n x = invRounds k' n x := by
    intro n
    induction n with
    | zero => intro _ _; rfl
    | succ n ih => intro hn x; rw [invRounds, invRounds, ih (by omega), roundG_loaded h d (by omega)]
  funext x
  rw [passInv, passInv, hn _ le_rfl, h.rounds]

theorem fwEnc_loaded (h : k.SameLoaded k') (hv : k.variant = .fullw) : fwEnc k = fwEnc k' := by
  have hn : ∀ n, n ≤ k.rounds.toNat → ∀ x, fwRounds k n x = fwRounds k' n x := by
    intro n
    induction n with
    | zero => intro _ _; rfl
    | succ n ih => intro hn x; rw [fwRounds, fwRounds, ih (by omega), fwRound_loaded h hv (by omega)]
  funext x
  rw [fwEnc, fwEnc, hn _ le_rfl, h.rounds]

theorem fwDec_loaded (h : k.SameLoaded k') (d : k.SameDerived k') (hv : k.variant = .fullw) : fwDec k = fwDec k' := by
  have hn : ∀ n, n ≤ k.rounds.toNat → ∀ x, fwInvRounds k n x = fwInvRounds k' n x := by
    intro n
    induction n with
    | zero => intro _ _; rfl
    | succ n ih => intro hn x; rw [fwInvRounds, fwInvRounds, ih (by omega), fwInvRound_loaded h d hv (by omega)]
  funext x
  rw [fwDec, fwDec, hn _ le_rfl, h.rounds]

theorem walk_loaded (d : k.SameDerived k') (pass : p.Word → p.Word) (x : p.Word) : walk k pass x = walk k' pass x := by
  simp only [walk, walkLimit, d.nreg, d.kbits, d.mask]

/-! ### The permutation and the commands -/

theorem permute_loaded (h : k.SameLoaded k') (d : k.SameDerived k') {x : p.Word} (hx : k.variant = .table → x < k.nreg) :
    permute k x = permute k' x := by
  unfold permute
  rw [← d.variant]
  cases hv : k.variant with
  | table => simp only [h.fwd hv x.toNat (hx hv)]
  | fullw => simp only [fwEnc_loaded h hv]
  | bhalf | bfull => simp only [passFwd_loaded h d, walk_loaded d]
  | none => rfl

theorem unpermute_loaded (h : k.SameLoaded k') (d : k.SameDerived k') {y : p.Word} (hy : k.variant = .table → y < k.nreg) :
    unpermute k y = unpermute k' y := by
  unfold unpermute
  rw [← d.variant]
  cases hv : k.variant with
  | table => simp only [d.inv hv y.toNat (hy hv)]
  | fullw => simp only [fwDec_loaded h d hv]
  | bhalf | bfull => simp only [passInv_loaded h d, walk_loaded d]
  | none => rfl

theorem outOfDomain_loaded (d : k.SameDerived k') (chk : Bool) (x : p.Word) :
    k.outOfDomain chk x = k'.outOfDomain chk x := by
  simp only [Kpe.outOfDomain, d.variant, d.nreg]

theorem inTable_of_outOfDomain {chk : Bool} {x : p.Word} (h : ¬ k.outOfDomain chk x = true) :
    k.variant = .table → x < k.nreg := by
  intro hv
  simpa [Kpe.outOfDomain, hv] using h

theorem withValue_shown (r : Reply (p.Word × p.Word)) : (k.withValue r).shown = (k'.withValue r).shown := by
  rcases r with ⟨_, _⟩ | _ | _ <;> rfl

/-- R112 for ENC: what it shows depends only on the loaded values and ARG0. -/
theorem encodeCommand_loaded (h : k.SameLoaded k') (hi : k.Inv) (hi' : k'.Inv) (hr : k.status.state = .ready)
    (hr' : k'.status.state = .ready) (ha : k.arg0 = k'.arg0) (chk : Bool) :
    (encodeCommand k chk).shown = (encodeCommand k' chk).shown := by
  have d := h.derived hi hi' hr hr'
  simp only [encodeCommand, hr, hr', ne_eq, not_true_eq_false, if_false, ← ha, ← outOfDomain_loaded d]
  split
  · rfl
  · rw [← permute_loaded h d (inTable_of_outOfDomain ‹_›)]
    exact withValue_shown _

/-- R112 for DEC. -/
theorem decodeCommand_loaded (h : k.SameLoaded k') (hi : k.Inv) (hi' : k'.Inv) (hr : k.status.state = .ready)
    (hr' : k'.status.state = .ready) (ha : k.arg0 = k'.arg0) (chk : Bool) :
    (decodeCommand k chk).shown = (decodeCommand k' chk).shown := by
  have d := h.derived hi hi' hr hr'
  simp only [decodeCommand, hr, hr', ne_eq, not_true_eq_false, if_false, ← ha, ← outOfDomain_loaded d]
  split
  · rfl
  · rw [← unpermute_loaded h d (inTable_of_outOfDomain ‹_›)]
    exact withValue_shown _

/-- R112 for ITNEXT: the iterator (ITER, ITV) is the host's offset. -/
theorem nextElement_loaded (h : k.SameLoaded k') (hi : k.Inv) (hi' : k'.Inv) (hr : k.status.state = .ready)
    (hr' : k'.status.state = .ready) (hit : k.iter = k'.iter) (hv : k.status.itv = k'.status.itv) :
    (nextElement k).shown = (nextElement k').shown := by
  have d := h.derived hi hi' hr hr'
  simp only [nextElement, hr, hr', ne_eq, not_true_eq_false, if_false, ← hit, ← hv]
  split
  · rfl
  · have hx : k.variant = .table → k.iter < k.nreg := fun ht =>
      (hi.iterator.finite (by rw [ht]; decide)).2 (by simpa using ‹¬k.status.itv = false›)
    rw [← permute_loaded h d hx]
    split
    · obtain ⟨j, v, hj⟩ := advanceIterator_eq (k := k.setResults _ _ k.iter) k.iter
      obtain ⟨j', v', hj'⟩ := advanceIterator_eq (k := k'.setResults _ _ k.iter) k.iter
      rw [hj, hj']
      rfl
    · rfl
    · rfl

end Sys2Proof.Machine
end

