-- ==== Sys2Proof/Laws/PerInstr.lean ====
section
/-! SUPPORT. Facts about every command as syntax, one lemma per constructor: where the encoder puts its fields (R80). -/

namespace Sys2Proof.Laws.EncodedFields

/-- The fields of a command's word stand where R80 puts them, and the reserved bits [15:11] are 0. -/
def Statement (i : Instr) : Prop :=
  (encode i).extractLsb' 0 8 = i.opcode ∧ (encode i).extractLsb' 8 1 = i.checked ∧
  (encode i).extractLsb' 9 2 = i.selector ∧ (encode i).extractLsb' 11 5 = 0#5 ∧
  (encode i).extractLsb' 16 16 = BitVec.ofNat 16 i.idx

theorem every (i : Instr) : Statement i := by
  unfold Statement encode
  refine ⟨?_, ?_, ?_, ?_, ?_⟩ <;>
    · apply BitVec.eq_of_getLsbD_eq
      intro j hj
      simp only [BitVec.getLsbD_extractLsb', BitVec.getLsbD_append, hj, decide_true, Bool.true_and]
      split_ifs <;> first
        | omega
        | simp
        | (congr 1; omega)

theorem nop : Statement .nop := every _
theorem cfg : Statement .cfg := every _
theorem mulwrC : Statement .mulwrC := every _
theorem mulwrC1 : Statement .mulwrC1 := every _
theorem mulwrC2 : Statement .mulwrC2 := every _
theorem keywrK1 (idx : Nat) : Statement (.keywrK1 idx) := every _
theorem keywrK2 (idx : Nat) : Statement (.keywrK2 idx) := every _
theorem keyrdK1 (idx : Nat) : Statement (.keyrdK1 idx) := every _
theorem keyrdK2 (idx : Nat) : Statement (.keyrdK2 idx) := every _
theorem tblwr (idx : Nat) : Statement (.tblwr idx) := every _
theorem tblrdFwd (idx : Nat) : Statement (.tblrdFwd idx) := every _
theorem tblrdInv (idx : Nat) : Statement (.tblrdInv idx) := every _
theorem arm : Statement .arm := every _
theorem encU : Statement .encU := every _
theorem encC : Statement .encC := every _
theorem decU : Statement .decU := every _
theorem decC : Statement .decC := every _
theorem itstart : Statement .itstart := every _
theorem itnext : Statement .itnext := every _
theorem block : Statement .block := every _
theorem invodd : Statement .invodd := every _
theorem invxs : Statement .invxs := every _
theorem srst : Statement .srst := every _

end Sys2Proof.Laws.EncodedFields
end

