-- ==== Sys2Proof/Laws/Step.lean ====
section
/-! SUPPORT. What one step does, said once: the engine's move, and each kind of arrival. -/

namespace Sys2Proof.Machine

open Sys2Proof.Config

theorem step_nil {s : State} (h : s.inputs = []) : step s = engineMove s := by simp [step, h]

theorem step_cons {s : State} {e : Event s.params.w} {rest : List (Event s.params.w)} (h : s.inputs = e :: rest) :
    step s = handle { s with inputs := rest } e := by simp [step, h]

/-- The engine's move: nothing while reset is asserted or no command is in flight, else the completion of the word in CMD. -/
theorem engineMove_cases (s : State) :
    ((s.rst = true ∨ s.kpe.status.busy = false) ∧ engineMove s = .next s) ∨
      (s.rst = false ∧ s.kpe.status.busy = true ∧
        ((∃ i, decode s.kpe.cmd = .ok i ∧ engineMove s = exec i s) ∨
          (∃ r, decode s.kpe.cmd = .error r ∧ engineMove s = .next (s.completedWith .cmd)))) := by
  simp only [engineMove]
  split
  · exact .inl ⟨.inl ‹_›, rfl⟩
  · split
    · refine .inr ⟨by simp_all, ‹_›, ?_⟩
      simp only [completeInFlight]
      split
      · exact .inl ⟨_, ‹_›, rfl⟩
      · exact .inr ⟨_, ‹_›, by simp⟩
    · exact .inl ⟨.inr (by simp_all), rfl⟩

/-- A bus read changes the host's data and, if it is illegal, BUSERR. -/
theorem busRead_cases (s : State) (addr bytes : Nat) :
    busRead s addr bytes = s ∨ (∃ d, busRead s addr bytes = { s with rdata := d }) ∨
      (s.rst = false ∧ busRead s addr bytes = { s with kpe := s.kpe.busError, rdata := 0 }) := by
  simp only [busRead]
  split
  · exact .inl rfl
  · split
    · exact .inr (.inl ⟨_, rfl⟩)
    · exact .inr (.inr ⟨by simp_all, rfl⟩)
  · split
    · exact .inr (.inl ⟨_, rfl⟩)
    · exact .inr (.inl ⟨_, rfl⟩)

/-- A bus write changes the KPE alone, by the write of one register or by BUSERR, and nothing while reset is asserted. -/
theorem busWrite_cases (s : State) (addr bytes : Nat) (v : s.params.Word) :
    busWrite s addr bytes v = s ∨
      (s.rst = false ∧ busWrite s addr bytes v = { s with kpe := s.kpe.busError }) ∨
      (s.rst = false ∧ ∃ r, busWrite s addr bytes v = { s with kpe := writeReg s.kpe r v }) := by
  simp only [busWrite]
  split
  · exact .inl rfl
  · split
    · exact .inl rfl
    · exact .inr (.inl ⟨by simp_all, rfl⟩)
  · split
    · exact .inl rfl
    · exact .inr (.inr ⟨by simp_all, _, rfl⟩)

/-- What the write of a register does to the KPE. -/
theorem writeReg_cases {p : Params} (k : Kpe p) (r : Reg) (v : p.Word) :
    writeReg k r v = k.busError ∨ writeReg k r v = { k with status := k.status.cleared (v.getLsbD 12) (v.getLsbD 13) } ∨
      (k.status.busy = true ∧ writeReg k r v = k.overrun) ∨
      (k.status.busy = false ∧ (writeReg k r v = k.issue v ∨ writeReg k r v = { k with arg0 := v } ∨
        writeReg k r v = { k with arg1 := v } ∨ writeReg k r v = { k with arg2 := v })) := by
  cases r <;> cases hb : k.status.busy <;> simp [writeReg, hb]

end Sys2Proof.Machine
end

