-- ==== Sys2Proof/Tests/Slice0.lean ====
section
/-! SUPPORT. Tests by the vectors of 95_test_vectors.md (their ids stand in the comments), one step each; the well-formedness
smoke test; and for each obligation with hypotheses a `witness_...` that meets them. -/

namespace Sys2Proof.Machine.Tests

open Sys2Proof Sys2Proof.Machine Sys2Proof.Config

/-! ### Small states -/

/-- The machine with the KPE `k` and the arrivals `inputs`. -/
def machine (p : Params) (k : Kpe p) (inputs : List (Event p.w) := []) : State :=
  { params := p, kpe := k, rst := false, inputs := inputs, rdata := 0 }

/-- The same with the reset input asserted. -/
def held (p : Params) (inputs : List (Event p.w)) : State :=
  { params := p, kpe := Kpe.reset p, rst := true, inputs := inputs, rdata := 0 }

/-- The operand registers. -/
def args {p : Params} (k : Kpe p) (a b c : p.Word) : Kpe p := { k with arg0 := a, arg1 := b, arg2 := c }

/-- What a command leaves of the KPE, itself where it fails. -/
def after {p : Params} (k : Kpe p) (r : Reply (Kpe p)) : Kpe p :=
  match r with
  | .ok k' => k'.succeed
  | .fail _ | .stop _ => k

/-- LOADING, after CFG from reset. -/
def loading (p : Params) (size rounds : p.Word) : Kpe p :=
  after (Kpe.reset p) (configure (args (Kpe.reset p) size rounds 0))

/-- The first entries of the key RAMs. -/
def withKeys {p : Params} (k : Kpe p) (a b c : p.Word) : Kpe p :=
  { k with k1 := ramSet (ramSet (ramSet k.k1 0 a) 1 b) 2 c }

/-- The first five entries of FWD. -/
def withTable {p : Params} (k : Kpe p) (a b c d e : p.Word) : Kpe p :=
  { k with fwd := ramSet (ramSet (ramSet (ramSet (ramSet k.fwd 0 a) 1 b) 2 c) 3 d) 4 e }

/-- READY, after ARM. -/
def armed {p : Params} (k : Kpe p) : Kpe p := after k (armKpe k)

/-- Configuration A32 (section 3): N = 100, keys K. -/
def a32 : Kpe reference32 := armed (withKeys (loading reference32 100 0) 0x12345678 0x9ABCDEF0 0x0F1E2D3C)

/-- Configuration A64 (section 3). -/
def a64 : Kpe reference64 := armed (withKeys (loading reference64 100 0) 0x12345678 0x9ABCDEF0 0x0F1E2D3C)

/-- Configuration B32 (section 3): N = 17, one round, K1[0] = 3. -/
def b32 : Kpe reference32 := armed (withKeys (loading reference32 17 1) 3 0 0)

/-- FullWord, W = 64, zero keys, two rounds (section 4). -/
def full64 : Kpe reference64 := armed (loading reference64 (-1) 0)

/-- The Table N = 5 in LOADING with FWD = (2, 4, 0, 1, 3) (V-TBL-6). -/
def table5 : Kpe reference32 := withTable (loading reference32 5 0) 2 4 0 1 3

/-- The same in READY. -/
def ready5 : Kpe reference32 := armed table5

/-- RES0, RES1, RES2 and STATUS that a command leaves. -/
def results (i : Instr) {p : Params} (k : Kpe p) : Option (Nat × Nat × Nat × Nat) :=
  match exec i (machine p k) with
  | .next t => some (t.kpe.res0.toNat, t.kpe.res1.toNat, t.kpe.res2.toNat, (statusWord t.params.w t.kpe.status).toNat)
  | .fault _ | .refused _ => none

/-- Some registers of the KPE that a command leaves. -/
def leaves (i : Instr) {p : Params} (k : Kpe p) (f : {q : Params} → Kpe q → List Nat) : Option (List Nat) :=
  match exec i (machine p k) with
  | .next t => some (f t.kpe)
  | .fault _ | .refused _ => none

/-- NREG, KBITS, MASK, RSHIFT, ROUNDS, CINV, CFGR and STATUS. -/
def domainOf {q : Params} (k : Kpe q) : List Nat :=
  [k.nreg.toNat, k.kbits.toNat, k.mask.toNat, k.rshift.toNat, k.rounds.toNat, k.cinv.toNat, (cfgrWord k).toNat,
   (statusWord q.w k.status).toNat]

/-- What one step on one arrival leaves: the data read, STATUS and some registers. -/
def arrival {p : Params} (k : Kpe p) (e : Event p.w) (f : {q : Params} → Kpe q → List Nat) : Option (Nat × Nat × List Nat) :=
  match step (machine p k [e]) with
  | .next t => some (t.rdata.toNat, (statusWord t.params.w t.kpe.status).toNat, f t.kpe)
  | .fault _ | .refused _ => none

/-! ### Command words (30_encoding.md; V-DEC-W) -/

/-- Every command's word, from the encodings of R100 to R111, R148 to R151 and R183 to R185. -/
theorem test_words_configuration :
    decode (0x00000000 : BitVec 32) = .ok .nop ∧ decode (0x00000001 : BitVec 32) = .ok .cfg ∧
    decode (0x00000002 : BitVec 32) = .ok .mulwrC ∧ decode (0x00000202 : BitVec 32) = .ok .mulwrC1 ∧
    decode (0x00000402 : BitVec 32) = .ok .mulwrC2 ∧ decode (0x00FF0003 : BitVec 32) = .ok (.keywrK1 255) ∧
    decode (0x00050203 : BitVec 32) = .ok (.keywrK2 5) ∧ decode (0x00020004 : BitVec 32) = .ok (.keyrdK1 2) ∧
    decode (0x80000204 : BitVec 32) = .ok (.keyrdK2 32768) ∧ decode (0x00030005 : BitVec 32) = .ok (.tblwr 3) ∧
    decode (0x00010006 : BitVec 32) = .ok (.tblrdFwd 1) ∧ decode (0x00010206 : BitVec 32) = .ok (.tblrdInv 1) ∧
    decode (0x00000007 : BitVec 32) = .ok .arm ∧ decode (0x00000030 : BitVec 32) = .ok .srst := by decide

theorem test_words_engine :
    decode (0x00000010 : BitVec 64) = .ok .encU ∧ decode (0x00000110 : BitVec 64) = .ok .encC ∧
    decode (0x00000011 : BitVec 64) = .ok .decU ∧ decode (0x00000111 : BitVec 64) = .ok .decC ∧
    decode (0x00000012 : BitVec 64) = .ok .itstart ∧ decode (0x00000013 : BitVec 64) = .ok .itnext ∧
    decode (0x00000020 : BitVec 64) = .ok .block ∧ decode (0x00000021 : BitVec 64) = .ok .invodd ∧
    decode (0x00000022 : BitVec 64) = .ok .invxs := by decide

/-- V-DEC-W-2 to V-DEC-W-12. -/
theorem test_words_illegal :
    decode (0x00000100 : BitVec 32) = .error .unusedField ∧ decode (0x00000602 : BitVec 32) = .error .badSelector ∧
    decode (0x00010002 : BitVec 32) = .error .unusedField ∧ decode (0x00010110 : BitVec 32) = .error .unusedField ∧
    decode (0x00008010 : BitVec 32) = .error .reservedBits ∧ decode (0x000000FF : BitVec 32) = .error .reservedOpcode ∧
    decode (0x00000008 : BitVec 32) = .error .reservedOpcode ∧ decode (0x00000031 : BitVec 32) = .error .reservedOpcode ∧
    decode (0x00000205 : BitVec 32) = .error .badSelector ∧ decode (0x00000406 : BitVec 32) = .error .badSelector ∧
    decode (0x100000000 : BitVec 64) = .error .upperHalf := by decide

/-- The index a command carries is bounded by its field: an ill-formed command is refused. -/
theorem test_wellFormed_smoke :
    (Instr.keywrK1 65535).wellFormed = true ∧ (Instr.keywrK1 65536).wellFormed = false ∧
    (Instr.tblrdInv 65536).wellFormed = false ∧ Instr.nop.wellFormed = true := by decide

/-- R89: the assembler text of a command. -/
theorem test_assembler_text : asmText (.keywrK2 5) = "KEYWR.K2 5" ∧ asmText .encC = "ENC.C" := by decide

/-! ### Commands (sections 2 to 6) -/

/-- V-CFG-10, V-CFG-14. -/
theorem test_cfg_vectors :
    leaves .cfg (args (Kpe.reset reference32) 100 0 0) domainOf = some [100, 7, 0x7F, 3, 3, 0x51, 0x030702, 0x6] ∧
    leaves .cfg (args (Kpe.reset reference64) (-2) 0 0) domainOf =
      some [0xFFFFFFFFFFFFFFFE, 64, 0xFFFFFFFFFFFFFFFF, 27, 5, 0x0887493432BADB37, 0x1B4003, 0x6] := by
  decide

/-- V-CFG-24, V-CFG-26, V-CFG-27. -/
theorem test_cfg_rounds :
    leaves .cfg (args (Kpe.reset reference32) 5 (-1) 0) domainOf = some [0, 0, 0, 0, 0, 0, 0, 0x412] ∧
    leaves .cfg (args (Kpe.reset reference32) (-1) 64 0) domainOf =
      some [0, 32, 0xFFFFFFFF, 0, 64, 0x0E8B2F51, 0x2004, 0x6] ∧
    leaves .cfg (args (Kpe.reset reference32) (-1) 65 0) domainOf = some [0, 0, 0, 0, 0, 0, 0, 0x412] := by
  decide

/-- V-MUL-1. -/
theorem test_mulwr_c :
    leaves .mulwrC (args (loading reference64 100 0) 0x9E3779B185EBCA87 0 0) (fun k => [k.c.toNat, k.cinv.toNat, k.res0.toNat]) =
    some [0x9E3779B185EBCA87, 0x37, 0x37] := by
  decide

/-- V-MUL-2. -/
theorem test_mulwr_c1 :
    leaves .mulwrC1 (args (Kpe.reset reference32) 3 0 0) (fun k => [k.c1.toNat, k.c1inv.toNat, k.res0.toNat]) =
    some [3, 0xAAAAAAAB, 0xAAAAAAAB] := by
  decide

/-- V-MUL-3, V-MUL-4. -/
theorem test_mulwr_c2 :
    leaves .mulwrC2 (args (Kpe.reset reference32) 4 0 0) (fun k => [k.c2.toNat, (statusWord 32 k.status).toNat]) =
    some [0xC2B2AE3D, 0x612] ∧ results .mulwrC2 (args a32 4 0 0) = some (0, 0, 0, 0x31A) := by
  decide

/-- V-KEY-1, V-KEY-3. -/
theorem test_keywr_k1 :
    leaves (.keywrK1 2) (args (loading reference32 100 0) 0x12345678 0 0)
      (fun k => [(ramGet k.k1 1).toNat, (ramGet k.k1 2).toNat]) = some [0, 0x12345678] ∧
    results (.keywrK1 3) (loading reference32 100 0) = some (0, 0, 0, 0x516) := by
  decide

/-- V-KEY-7, V-KEY-4. -/
theorem test_keywr_k2 :
    leaves (.keywrK2 1) (args (loading reference64 (-1) 0) 0x1111111111111111 0 0)
      (fun k => [(ramGet k.k1 1).toNat, (ramGet k.k2 1).toNat]) = some [0, 0x1111111111111111] ∧
    results (.keywrK2 0) (loading reference32 100 0) = some (0, 0, 0, 0x516) := by
  decide

/-- V-KEY-2, V-KEY-6, and R106 in UNCONF. -/
theorem test_keyrd_k1 :
    results (.keyrdK1 2) a32 = some (0x0F1E2D3C, 0, 0, 0xA) ∧ results (.keyrdK1 0) (Kpe.reset reference32) = some (0, 0, 0, 0x212) := by
  decide

/-- R106. -/
theorem test_keyrd_k2 :
    results (.keyrdK2 0) a32 = some (0, 0, 0, 0x51A) ∧
    results (.keyrdK2 0) { full64 with k2 := ramSet full64.k2 0 9 } = some (9, 0, 0, 0xA) := by
  decide

/-- V-TBL-1, V-TBL-2, V-TBL-3. -/
theorem test_tblwr :
    leaves (.tblwr 3) (args (loading reference32 5 0) 1 0 0) (fun k => [(ramGet k.fwd 3).toNat, (ramGet k.inv 3).toNat]) =
      some [1, 0] ∧ results (.tblwr 5) (loading reference32 5 0) = some (0, 0, 0, 0x516) ∧
    results (.tblwr 0) (loading reference32 100 0) = some (0, 0, 0, 0x216) := by
  decide

/-- V-TBL-10, V-TBL-11. -/
theorem test_tblrd :
    results (.tblrdInv 1) ready5 = some (3, 0, 0, 0xA) ∧ results (.tblrdFwd 1) ready5 = some (4, 0, 0, 0xA) ∧
    results (.tblrdInv 1) table5 = some (0, 0, 0, 0x6) := by
  decide

/-- V-TBL-6. -/
theorem test_arm_table :
    leaves .arm table5 (fun k => (k.inv.toList.take 6).map BitVec.toNat ++ [(statusWord 32 k.status).toNat]) =
    some [2, 3, 0, 4, 1, 0, 0xA] := by
  decide

/-- V-TBL-7, V-TBL-8, V-ARM-1. -/
theorem test_arm_fails :
    results .arm (withTable (loading reference32 5 0) 2 4 0 1 1) = some (0, 0, 0, 0x716) ∧
    results .arm (withTable (loading reference32 5 0) 2 4 0 1 5) = some (0, 0, 0, 0x716) ∧
    results .arm (Kpe.reset reference32) = some (0, 0, 0, 0x212) := by
  decide

/-- V-NOP-1. -/
theorem test_nop :
    results .nop { a32 with status := ⟨false, true, .ready, true, true, .cmd, false, false⟩ } = some (0, 0, 0, 0x2A) := by
  decide

/-- V-SRST-1. -/
theorem test_srst :
    leaves .srst { a32 with c := 3 } (fun k => [k.c.toNat, k.size.toNat, (ramGet k.k1 0).toNat, (statusWord 32 k.status).toNat]) =
    some [0x9E3779B1, 0, 0, 0x2] := by
  decide

/-- V-ENC-2, V-ENC-11, V-ENC-14. -/
theorem test_enc_checked :
    results .encC (args a32 1 0 0) = some (35, 2, 0, 0xA) ∧ results .encC (args a32 100 0 0) = some (0, 0, 0, 0x81A) ∧
    results .encC (args a64 42 0 0) = some (70, 2, 0, 0xA) := by
  decide

/-- V-ENC-8, V-WALK-1. -/
theorem test_enc_unchecked :
    results .encU (args a32 133 0 0) = some (24, 2, 0, 0xA) ∧ results .encU (args b32 26 0 0) = some (0, 0, 0, 0xA1A) := by
  decide

/-- V-DEC-2, V-WALK-6. -/
theorem test_dec_checked :
    results .decC (args a32 35 0 0) = some (1, 2, 0, 0xA) ∧ results .decC (args b32 16 0 0) = some (7, 6, 0, 0xA) := by
  decide

/-- V-DEC-5, V-WALK-3. -/
theorem test_dec_unchecked :
    results .decU (args a32 133 0 0) = some (21, 2, 0, 0xA) ∧ results .decU (args b32 31 0 0) = some (0, 0, 0, 0xA1A) := by
  decide

/-- V-FW-64-1. -/
theorem test_enc_full :
    results .encU (args full64 1 0 0) = some (0xBFBD3DFAF2945B24, 1, 0, 0xA) := by
  decide

/-- V-FW-64-1f. -/
theorem test_dec_full :
    results .decC (args full64 1 0 0) = some (0xD5EA50C326B0D64B, 1, 0, 0xA) := by
  decide

/-- V-IT-3, V-IT-4, V-IT-7. -/
theorem test_itstart :
    leaves .itstart (args ready5 5 0 0) (fun k => [k.iter.toNat, (statusWord 32 k.status).toNat]) = some [5, 0xA] ∧
    leaves .itstart (args ready5 6 0 0) (fun k => [k.iter.toNat, (statusWord 32 k.status).toNat]) = some [0, 0x81A] ∧
    leaves .itstart (args full64 (-1) 0 0) (fun k => [k.iter.toNat, (statusWord 64 k.status).toNat]) =
      some [0xFFFFFFFFFFFFFFFF, 0x2A] := by
  decide

/-- V-IT-1, V-IT-2. -/
theorem test_itnext :
    leaves .itnext (ready5.setIterator 4 true)
      (fun k => [k.res0.toNat, k.res1.toNat, k.res2.toNat, k.iter.toNat, (statusWord 32 k.status).toNat]) =
      some [3, 0, 4, 5, 0xA] ∧
    results .itnext (ready5.setIterator 5 false) = some (0, 0, 0, 0x91A) := by
  decide

/-- V-IT-7. -/
theorem test_itnext_full :
    leaves .itnext (full64.setIterator (-1) true)
      (fun k => [k.res0.toNat, k.res2.toNat, k.iter.toNat, (statusWord 64 k.status).toNat]) =
      some [0xF3391A2384F727A3, 0xFFFFFFFFFFFFFFFF, 0xFFFFFFFFFFFFFFFF, 0xA] := by
  decide

/-- V-BLK-6, V-BLK-9, V-BLK-13. -/
theorem test_block :
    results .block (args (Kpe.reset reference32) 17 0 0) = some (0x1F, 5, 2, 0x2) ∧
    results .block (args (Kpe.reset reference64) (-1) 0 0) = some (0xFFFFFFFFFFFFFFFF, 64, 27, 0x2) ∧
    results .block (args (Kpe.reset reference32) 0 0 0) = some (0, 0, 0, 0xB12) := by
  decide

/-- V-INV-9, V-INV-11. -/
theorem test_invodd :
    results .invodd (args (Kpe.reset reference64) 0x9E3779B1 (-1) 0) = some (0xCFA4A56B0E8B2F51, 0, 0, 0x2) ∧
    results .invodd (args (Kpe.reset reference64) 4 (-1) 0) = some (0, 0, 0, 0x612) := by
  decide

/-- V-XS-8, V-XS-9, V-XS-12. -/
theorem test_invxs :
    results .invxs (args (Kpe.reset reference32) 0x1FF 3 8) = some (0xC7, 2, 0, 0x2) ∧
    results .invxs (args (Kpe.reset reference64) 5 1 64) = some (6, 6, 0, 0x2) ∧
    results .invxs (args (Kpe.reset reference32) 5 1 33) = some (0, 0, 0, 0xB12) := by
  decide

/-! ### The bus and reset (section 7) -/

/-- V-BUS-1, V-BUS-4, V-BUS-5, V-BUS-7. -/
theorem test_bus_reads :
    arrival (Kpe.reset reference32) (.read 0x00 4) (fun _ => []) = some (0x00401020, 0, []) ∧
    arrival (Kpe.reset reference64) (.read 0xA0 8) (fun _ => []) = some (0x1F1B1E, 0, []) ∧
    arrival (Kpe.reset reference32) (.read 0x58 4) (fun _ => []) = some (0, 0x2000, []) ∧
    arrival (Kpe.reset reference32) (.read 0x06 4) (fun _ => []) = some (0, 0x2000, []) := by
  decide

/-- V-BUS-6, V-BUS-8, V-BUS-10, V-BUS-11. -/
theorem test_bus_writes :
    arrival (Kpe.reset reference32) (.write 0x18 4 5) (fun k => [k.res0.toNat]) = some (0, 0x2000, [0]) ∧
    arrival { Kpe.reset reference32 with status := ⟨false, true, .ready, false, false, .ok, true, true⟩ }
      (.write 0x04 4 0x1000) (fun _ => []) = some (0, 0x200A, []) ∧
    arrival ((Kpe.reset reference32).issue 0x10) (.write 0x0C 4 7) (fun k => [k.arg0.toNat]) = some (0, 0x1001, [0]) ∧
    arrival ((Kpe.reset reference32).issue 0x20) (.write 0x08 4 0x10) (fun k => [k.cmd.toNat]) = some (0, 0x1001, [0x20]) := by
  decide

/-- V-BUS-13. -/
theorem test_byte_lanes :
    byteLane (0x12345678 : BitVec 32) 0 = 0x78 ∧ byteLane (0x12345678 : BitVec 32) 3 = 0x12 := by
  decide

/-- ENC.C as the first command after reset: legal, and fails STATE (V-DEC-W-14). -/
theorem test_withFetchWord_runs :
    (match step (State.reset.withFetchWord 32 0x110) with
      | .next t => some (statusWord 64 t.kpe.status).toNat
      | .fault _ | .refused _ => none) = some 0x212 := by
  decide

/-- Program P1, lines 4 and 6. -/
theorem test_pseudo_expansion :
    HostLine.expand reference32 (.encode 42) =
      [.write 0x0C 4 42, .write 0x08 4 0x110, .poll, .read 0x18 4] ∧
    HostLine.expand reference32 (.loadkey .k1 2 0x0F1E2D3C) = [.write 0x0C 4 0x0F1E2D3C, .write 0x08 4 0x20003, .poll] := by
  decide
/-- R112, R232: the loading programs P1 (lines 1 to 5) and of V-TBL-6, with a multiplier set before the keys. -/
theorem test_load_program :
    loadProgram (w := 32) ⟨100, 0, [], [0x12345678, 0x9ABCDEF0, 0x0F1E2D3C], [], []⟩ =
      [.config 100 0, .loadkey .k1 0 0x12345678, .loadkey .k1 1 0x9ABCDEF0, .loadkey .k1 2 0x0F1E2D3C, .exec .arm] ∧
    loadProgram (w := 32) ⟨2, 0, [], [], [], [1, 0]⟩ = [.config 2 0, .loadtbl 0 1, .loadtbl 1 0, .exec .arm] ∧
    loadProgram (w := 32) ⟨-1, 1, [(.c1, 3)], [7], [9], []⟩ =
      [.config (-1) 1, .setmul .c1 3, .loadkey .k1 0 7, .loadkey .k2 0 9, .exec .arm] := by decide

/-! ### Witnesses: states and operands that meet the hypotheses of the obligations -/

theorem reference64_wf : reference64.Wf := by constructor <;> decide

theorem reference32_wf : reference32.Wf := by constructor <;> decide

/-- A command in flight. -/
def inFlight (v : BitVec 32) : Kpe reference32 := (Kpe.reset reference32).issue v

theorem witness_DecodingAnEncodedCommandGivesIt :
    Instr.nop.wellFormed = true ∧ (Instr.keywrK1 0).wellFormed = true ∧ (Instr.tblrdInv 65535).wellFormed = true := by decide

theorem witness_EncodingADecodedWordGivesIt :
    decode (0 : BitVec Width.w32.bits) = .ok .nop ∧ decode (0xFFFF0206 : BitVec Width.w64.bits) = .ok (.tblrdInv 65535) := by
  decide

theorem witness_LegalWordsMatchExactlyOneRow :
    decode (0xFFFF0206 : BitVec Width.w64.bits) = .ok (.tblrdInv 65535) ∧
    (machine _ (inFlight 0x8010)).rst = false ∧ (machine _ (inFlight 0x8010)).inputs = [] ∧
    (machine _ (inFlight 0x8010)).kpe.status.busy = true ∧ ¬ ∃ i, decode (machine _ (inFlight 0x8010)).kpe.cmd = .ok i := by
  refine ⟨by decide, rfl, rfl, rfl, fun ⟨i, h⟩ => ?_⟩
  rw [show decode (machine _ (inFlight 0x8010)).kpe.cmd = .error .reservedBits by decide] at h
  cases h

theorem witness_StepRunsTheDecodedCommand :
    ((machine _ (inFlight 0x20)).rst = false ∧ (machine _ (inFlight 0x20)).kpe.status.busy = true ∧
      decode (machine _ (inFlight 0x20)).kpe.cmd = .ok .block ∧ (machine _ (inFlight 0x20)).inputs = []) ∧
    (machine _ (inFlight 0x20) [.engine, .poll]).inputs = .engine :: [.poll] := by decide

/-- One clause each: a partial access at the window's first byte, a misaligned one at its last. -/
theorem witness_PartialOrMisalignedAccessOnlySetsBuserr :
    reference32.Wf ∧ (machine reference32 (Kpe.reset _)).rst = false ∧
    (reference32.base ≤ 0 ∧ 0 < reference32.base + 256 * (reference32.w / 8) ∧ 2 ≠ reference32.w / 8) ∧
    (reference32.base ≤ 1023 ∧ 1023 < reference32.base + 256 * (reference32.w / 8) ∧ 1023 % (reference32.w / 8) ≠ 0) ∧
    (machine reference32 (Kpe.reset _) [.read 0 2]).inputs = .read 0 2 :: [] ∧
    (machine reference32 (Kpe.reset _) [.write 1023 4 7]).inputs = .write 1023 4 7 :: [] := by
  exact ⟨reference32_wf, by decide⟩

theorem witness_UnmappedIndexOnlySetsBuserr :
    (machine reference64 (Kpe.reset _) [.read (0x16 * 8) 8]).rst = false ∧ 0x16 ≤ 0x16 ∧ 0xFF ≤ 0xFF ∧
    (machine reference64 (Kpe.reset _) [.read (0x16 * 8) 8]).inputs =
      .read (reference64.base + 0x16 * (reference64.w / 8)) (reference64.w / 8) :: [] ∧
    (machine reference64 (Kpe.reset _) [.write (0xFF * 8) 8 7]).inputs =
      .write (reference64.base + 0xFF * (reference64.w / 8)) (reference64.w / 8) 7 :: [] := by decide

theorem witness_ReadOnlyRegisterWriteOnlySetsBuserr :
    (machine _ (inFlight 0) [.write 0 4 7]).rst = false ∧
    (machine _ (inFlight 0) [.write 0 4 7]).inputs =
      .write (reference32.base + 0x00 * (reference32.w / 8)) (reference32.w / 8) 7 :: [] ∧
    (machine _ (inFlight 0) [.write 0x54 4 7]).inputs =
      .write (reference32.base + 0x15 * (reference32.w / 8)) (reference32.w / 8) 7 :: [] := by decide

theorem witness_StatusWriteClearsStickyBits :
    (machine _ (inFlight 0) [.write 4 4 0x3000]).rst = false ∧
    (machine _ (inFlight 0) [.write 4 4 0x3000]).inputs =
      .write (reference32.base + 1 * (reference32.w / 8)) (reference32.w / 8) 0x3000 :: [] := by decide

theorem witness_CmdWriteIssuesTheCommand :
    ((machine reference32 (Kpe.reset _) [.write 8 4 0x8010]).rst = false ∧
      (machine reference32 (Kpe.reset _) [.write 8 4 0x8010]).inputs =
        .write (reference32.base + 2 * (reference32.w / 8)) (reference32.w / 8) 0x8010 :: [] ∧
      (machine reference32 (Kpe.reset _) [.write 8 4 0x8010]).kpe.status.busy = false) ∧
    (machine _ (inFlight 1) [.write 8 4 0x8010]).kpe.status.busy = true ∧
    (machine _ (inFlight 1) [.read 8 4]).inputs =
      .read (reference32.base + 2 * (reference32.w / 8)) (reference32.w / 8) :: [] := by decide

theorem witness_ArgWriteStoresTheOperand :
    ((machine reference32 (Kpe.reset _) [.write 12 4 7]).rst = false ∧
      (machine reference32 (Kpe.reset _) [.write 12 4 7]).kpe.status.busy = false ∧
      (machine reference32 (Kpe.reset _) [.write 12 4 7]).inputs =
        .write (reference32.base + 3 * (reference32.w / 8)) (reference32.w / 8) 7 :: []) ∧
    ((machine reference32 (Kpe.reset _) [.write 20 4 7]).inputs =
        .write (reference32.base + 5 * (reference32.w / 8)) (reference32.w / 8) 7 :: []) ∧
    Instr.nop ≠ .srst ∧
    ∃ k, exec .nop (machine reference32 (Kpe.reset _)) = .next { machine reference32 (Kpe.reset _) with kpe := k } := by
  refine ⟨by decide, by decide, by decide, _, rfl⟩

/-- The clauses at indices 2, 5 and 1. -/
theorem witness_BusyWriteIsDroppedAndSetsOvr :
    (machine _ (inFlight 0) [.write 8 4 7]).rst = false ∧ (machine _ (inFlight 0) [.write 8 4 7]).kpe.status.busy = true ∧
    (machine _ (inFlight 0) [.write 8 4 7]).inputs =
      .write (reference32.base + 2 * (reference32.w / 8)) (reference32.w / 8) 7 :: [] ∧
    (machine _ (inFlight 0) [.write 20 4 7]).inputs =
      .write (reference32.base + 5 * (reference32.w / 8)) (reference32.w / 8) 7 :: [] ∧
    (machine _ (inFlight 0) [.write 4 4 7]).inputs =
      .write (reference32.base + 1 * (reference32.w / 8)) (reference32.w / 8) 7 :: [] := by decide

theorem witness_RegisterMapReads :
    (machine _ a32 [.read 0x54 4]).rst = false ∧
    (0x15, a32.iter) ∈
      [(0x00, idWord reference32), (0x01, statusWord 32 a32.status), (0x02, a32.cmd), (0x03, a32.arg0),
       (0x04, a32.arg1), (0x05, a32.arg2), (0x06, a32.res0), (0x07, a32.res1), (0x08, a32.res2),
       (0x09, a32.size), (0x0A, a32.nreg), (0x0B, cfgrWord a32), (0x0C, a32.rounds), (0x0D, a32.mask),
       (0x0E, a32.c), (0x0F, a32.cinv), (0x10, a32.c1), (0x11, a32.c1inv), (0x12, a32.c2),
       (0x13, a32.c2inv), (0x14, xshiftWord reference32), (0x15, a32.iter)] ∧
    (machine _ a32 [.read 0x54 4]).inputs =
      .read (reference32.base + 0x15 * (reference32.w / 8)) (reference32.w / 8) :: [] :=
  ⟨by decide, by simp, by decide⟩

theorem witness_IdHoldsWidthTableAndRounds :
    reference32.Wf ∧ reference64.Wf ∧ ∃ t, step State.reset = .next t := ⟨reference32_wf, reference64_wf, _, rfl⟩

theorem witness_CfgrAndXshiftHoldTheirFields : reference64.Wf ∧ reference64.width = .w64 := ⟨reference64_wf, rfl⟩

/-- A write, a legal read (RES0) and an illegal read. -/
theorem witness_AccessesWhileBusyChangeOnlyStickyBits :
    (machine _ (inFlight 0) [.write 12 4 7]).kpe.status.busy = true ∧
    ((machine _ (inFlight 0) [.write 12 4 7]).inputs = .write 12 4 7 :: [] ∧
      ∃ t, step (machine _ (inFlight 0) [.write 12 4 7]) = .next t) ∧
    ((machine _ (inFlight 0) [.read 0x18 4]).rst = false ∧ (machine _ (inFlight 0) [.read 0x18 4]).inputs =
      .read (reference32.base + Reg.res0.index * (reference32.w / 8)) (reference32.w / 8) :: []) ∧
    ((machine _ (inFlight 0) [.read 0x58 4]).inputs = .read 0x58 4 :: [] ∧
      ∃ t, step (machine _ (inFlight 0) [.read 0x58 4]) = .next t) :=
  ⟨by decide, ⟨by decide, _, rfl⟩, by decide, by decide, _, rfl⟩

theorem witness_SrstRestoresTheResetValues :
    ∃ t, exec .srst (machine _ a32) = .next t ∧ a32.status.state ≠ .unconf ∧ t.kpe.status.state = .unconf :=
  ⟨_, rfl, by decide, rfl⟩

theorem witness_ResetInputIgnoresTheBusAndResets :
    (machine _ (inFlight 0) [.resetOn]).inputs = .resetOn :: [] ∧ (held reference32 []).rst = true ∧
    ((held reference32 [.read 0 4]).inputs = .read 0 4 :: [] ∧ reference32.base ≤ 0 ∧
      0 < reference32.base + 256 * (reference32.w / 8)) ∧
    (held reference32 [.write 8 4 1]).inputs = .write 8 4 1 :: [] ∧
    (held reference32 [.engine]).inputs = .engine :: [] ∧ (held reference32 []).inputs = [] ∧
    (held reference32 [.resetOff]).inputs = .resetOff :: [] := by decide

theorem witness_IdleKpeHoldsItsState :
    (machine _ a32).kpe.status.busy = false ∧ (machine _ a32).inputs = [] ∧
    (machine _ a32 [.engine]).inputs = .engine :: [] := by decide

/-- A failing command. -/
theorem witness_FailureChangesOnlyStatus :
    ∃ t, exec .arm (machine reference32 (Kpe.reset _)) = .next t ∧ t.kpe.status.err = true := ⟨_, rfl, rfl⟩

theorem witness_EveryCommandCompletesOnce :
    (∃ t, exec .arm (machine reference32 (Kpe.reset _)) = .next t) ∧
    ((machine reference32 (Kpe.reset _)).kpe.variant ≠ .none ∨ (machine reference32 (Kpe.reset _)).kpe.status.state ≠ .ready) ∧
    ((machine _ a32).kpe.variant ≠ .none ∨ (machine _ a32).kpe.status.state ≠ .ready) :=
  ⟨⟨_, rfl⟩, by decide, by decide⟩

theorem witness_CommandsWriteOnlyTheirOwnState :
    (∃ t, exec .block (machine _ (args a32 17 0 0)) = .next t) ∧ Instr.block ≠ .srst ∧ Instr.block ≠ .cfg := by
  exact ⟨⟨_, rfl⟩, by decide, by decide⟩

/-- Each error code is some command's. -/
theorem witness_ErrorCodesAreRaisedOnlyByTheirCommands :
    results .arm (Kpe.reset reference32) = some (0, 0, 0, 0x212) ∧ results .mulwrC a32 = some (0, 0, 0, 0x31A) ∧
    results .cfg (args (Kpe.reset reference32) 5 (-1) 0) = some (0, 0, 0, 0x412) ∧
    results (.keyrdK1 3) a32 = some (0, 0, 0, 0x51A) ∧ results .mulwrC2 (Kpe.reset reference32) = some (0, 0, 0, 0x612) ∧
    (results .arm (loading reference32 5 0) = some (0, 0, 0, 0x716) ∧ results .encC (args a32 100 0 0) = some (0, 0, 0, 0x81A) ∧
      results .itnext a32 = some (0, 0, 0, 0x91A) ∧ results .encU (args b32 26 0 0) = some (0, 0, 0, 0xA1A) ∧
      results .block (Kpe.reset reference32) = some (0, 0, 0, 0xB12)) := by
  exact ⟨by decide, by decide, by decide, by decide, by decide, by decide⟩

/-- CFG from UNCONF, and the assertion of reset in READY. -/
theorem witness_ConfigurationStateTransitions :
    (∃ t, step (machine reference32 (inFlight 0x01)) = .next t ∧ t.kpe.status.state ≠ (inFlight 0x01).status.state) ∧
    ∃ t, step (machine _ a32 [.resetOn]) = .next t ∧ t.kpe.status.state ≠ a32.status.state :=
  ⟨⟨_, rfl, by decide⟩, _, rfl, by decide⟩

theorem witness_NopOnlyCompletes :
    (machine _ { a32 with status := ⟨false, true, .ready, true, true, .cmd, false, false⟩ }).kpe.status =
      ⟨false, true, .ready, true, true, .cmd, false, false⟩ := by decide

/-- A bounded domain with default rounds, the negative request, the largest accepted round count and one more. -/
theorem witness_CfgConfiguresTheDomain :
    reference32.Wf ∧ classify (100 : BitVec 32) = (.bhalf, 100) ∧ defaultRounds .bhalf 100 = 3 ∧ 3 ≤ reference32.rMax ∧
    (0 : Int) ≤ (0 : BitVec 32).toInt ∧ (-1 : BitVec 32).toInt < 0 ∧
    (0 ≤ (65 : BitVec 32).toInt ∧ reference32.rMax < (65 : BitVec 32).toNat) ∧
    (0 ≤ (64 : BitVec 32).toInt ∧ (64 : BitVec 32).toNat ≤ reference32.rMax) ∧
    classify (16 : BitVec 32) = (.table, 16) ∧ classify (-1 : BitVec 32) = (.fullw, 0) := by
  exact ⟨reference32_wf, by decide⟩

theorem witness_ClassifySelectsTheVariant :
    (-1 : BitVec Width.w32.bits).toInt = -1 ∧ (0x80000000 : BitVec Width.w32.bits).toInt < -1 ∧
    (-2 : BitVec Width.w64.bits).toInt < -1 ∧ (0 ≤ (16 : BitVec Width.w32.bits).toInt ∧ (16 : BitVec Width.w32.bits).toInt ≤ 16) ∧
    16 < (17 : BitVec Width.w64.bits).toInt ∧ 16 < (0x7FFFFFFF : BitVec Width.w32.bits).toInt := by decide

theorem witness_DefaultRoundsBySizeBand :
    1024 ≤ 2 ^ 10 ∧ (2 ^ 10 < 1025 ∧ 1025 ≤ 2 ^ 20) ∧ 2 ^ 20 < 1048577 ∧
    classify (0x80000000 : BitVec Width.w32.bits) = (.bfull, 0x80000000) := by decide

/-- READY, UNCONF with an even and with an odd operand. -/
theorem witness_MulwrWritesMultiplierAndInverse :
    (machine _ a32).kpe.status.state = .ready ∧
    ((machine _ (args (loading reference32 100 0) 4 0 0)).kpe.status.state ≠ .ready ∧
      (machine _ (args (loading reference32 100 0) 4 0 0)).kpe.arg0.getLsbD 0 = false) ∧
    (machine _ (args (loading reference32 100 0) 3 0 0)).kpe.status.state ≠ .ready ∧
    (machine _ (args (loading reference32 100 0) 3 0 0)).kpe.arg0.getLsbD 0 = true := by decide

/-- Every clause: UNCONF, READY, LOADING at the index ROUNDS and below it, outside FullWord and in it. -/
theorem witness_KeywrWritesOneKey :
    (a32.rounds.toNat ≤ reference32.rMax ∧ full64.rounds.toNat ≤ reference64.rMax) ∧
    (Kpe.reset reference32).status.state = .unconf ∧ a32.status.state = .ready ∧
    ((loading reference32 100 0).status.state = .loading ∧ (loading reference32 100 0).rounds.toNat ≤ 3 ∧
      2 < (loading reference32 100 0).rounds.toNat ∧ (loading reference32 100 0).variant ≠ .fullw) ∧
    (loading reference64 (-1) 0).status.state = .loading ∧ 1 < (loading reference64 (-1) 0).rounds.toNat ∧
    (loading reference64 (-1) 0).variant = .fullw := by decide

theorem witness_KeyrdReadsOneKey :
    (Kpe.reset reference32).status.state = .unconf ∧
    (a32.status.state ≠ .unconf ∧ a32.rounds.toNat ≤ 3 ∧ 2 < a32.rounds.toNat ∧ a32.variant ≠ .fullw) ∧
    full64.status.state ≠ .unconf ∧ 1 < full64.rounds.toNat ∧ full64.variant = .fullw := by decide

theorem witness_TblwrWritesOneEntry :
    (table5.variant = .table ∧ table5.nreg.toNat ≤ 16) ∧ (Kpe.reset reference32).status.state = .unconf ∧
    (Kpe.reset reference32).variant ≠ .table ∧ ready5.status.state = .ready ∧ ready5.nreg.toNat ≤ 16 ∧
    ((loading reference32 100 0).status.state = .loading ∧ (loading reference32 100 0).variant ≠ .table) ∧
    table5.status.state = .loading ∧ table5.nreg.toNat ≤ 5 ∧ 4 < table5.nreg.toNat := by decide

theorem witness_TblrdReadsOneEntry :
    (Kpe.reset reference32).status.state = .unconf ∧ a32.variant ≠ .table ∧
    ready5.status.state ≠ .unconf ∧ ready5.variant = .table ∧ ready5.nreg.toNat ≤ 5 ∧ 4 < ready5.nreg.toNat := by decide

/-- A permutation, no permutation (FWD not loaded), and a variant without a table. -/
theorem witness_ArmChecksAndFreezes :
    (table5.nreg.toNat ≤ 16 ∧ table5.status.state ≠ .unconf ∧ table5.variant = .table ∧
      (∀ i, i < table5.nreg.toNat → ramGet table5.fwd i < table5.nreg) ∧
      ∀ i j, i < j → j < table5.nreg.toNat → ramGet table5.fwd i ≠ ramGet table5.fwd j) ∧
    ((loading reference32 5 0).variant = .table ∧ 1 < (loading reference32 5 0).nreg.toNat ∧
      ramGet (loading reference32 5 0).fwd 0 = ramGet (loading reference32 5 0).fwd 1) ∧
    (loading reference32 100 0).status.state ≠ .unconf ∧ (loading reference32 100 0).variant ≠ .table := by
  exact ⟨⟨by decide, by decide, by decide, tableInRange_iff.mp (by decide), tableDistinct_iff.mp (by decide)⟩, by decide⟩

/-- Every variant, in and out of the domain, a walk that lands and one that does not. -/
theorem witness_EncEncodesInEveryVariant :
    table5.status.state ≠ .ready ∧ (ready5.status.state = .ready ∧ ready5.variant = .table) ∧
    ((args ready5 4 0 0).arg0 < ready5.nreg ∧ ¬ (args ready5 5 0 0).arg0 < ready5.nreg) ∧
    (full64.status.state = .ready ∧ full64.variant = .fullw) ∧
    (b32.status.state = .ready ∧ b32.variant = .bhalf ∧ (args b32 16 0 0).arg0 < b32.nreg ∧ ¬ (args b32 17 0 0).arg0 < b32.nreg) ∧
    walk b32 (passFwd b32) 7 = some (16, 6) ∧ walk b32 (passFwd b32) 26 = none := by decide

theorem witness_DecDecodesInEveryVariant :
    walk b32 (passInv b32) 16 = some (7, 6) ∧ walk b32 (passInv b32) 31 = none ∧
    b32.status.state = .ready ∧ b32.variant = .bhalf ∧ (args b32 16 0 0).arg0 < b32.nreg := by decide

/-- The offset below N, at N and beyond it. -/
theorem witness_ItstartSetsTheIterator :
    table5.status.state ≠ .ready ∧ (full64.status.state = .ready ∧ full64.variant = .fullw) ∧
    (ready5.status.state = .ready ∧ ready5.variant ≠ .fullw ∧ ready5.nreg < (args ready5 6 0 0).arg0 ∧
      (args ready5 4 0 0).arg0 < ready5.nreg ∧ (args ready5 5 0 0).arg0 = ready5.nreg) := by decide

theorem witness_ItnextReturnsTheNextElement :
    table5.status.state ≠ .ready ∧ (ready5.status.state = .ready ∧ ready5.status.itv = false) ∧
    ((ready5.setIterator 4 true).status.itv = true ∧ ready5.variant = .table) ∧
    ((full64.setIterator (-1) true).status.state = .ready ∧ full64.variant = .fullw ∧
      (full64.setIterator (-1) true).iter = ones reference64.w ∧ (full64.setIterator 0 true).iter ≠ ones reference64.w) ∧
    (b32.setIterator 16 true).status.state = .ready ∧ (b32.setIterator 16 true).variant = .bhalf ∧
    walk (b32.setIterator 16 true) (passFwd (b32.setIterator 16 true)) (b32.setIterator 16 true).iter = some (8, 2) := by
  exact ⟨by decide, by decide, by decide, by decide, by decide, by decide, by decide⟩

theorem witness_BlockReturnsItsParameters :
    (Kpe.reset reference32).arg0 = 0 ∧ (args (Kpe.reset reference32) 1 0 0).arg0 ≠ 0 ∧
    (args (Kpe.reset reference32) (-1) 0 0).arg0 ≠ 0 := by decide

theorem witness_InvoddReturnsTheInverse :
    (args (Kpe.reset reference32) 4 0 0).arg0.getLsbD 0 = false ∧
    (args (Kpe.reset reference32) (-1) 0 0).arg0.getLsbD 0 = true := by decide

theorem witness_InvxsReturnsTheInverseAndItsIterations :
    (args (Kpe.reset reference32) 5 1 0).arg2 = 0 ∧ 32 < (args (Kpe.reset reference32) 5 1 33).arg2.toNat ∧
    (args (Kpe.reset reference32) 5 0 8).arg1 = 0 ∧
    (1 ≤ (args (Kpe.reset reference32) 5 1 32).arg2.toNat ∧ (args (Kpe.reset reference32) 5 1 32).arg2.toNat ≤ reference32.w ∧
      (args (Kpe.reset reference32) 5 1 32).arg1 ≠ 0) := by decide

theorem witness_BlockParametersOfN :
    1 ≤ (1 : BitVec Width.w32.bits).toNat ∧ 1 ≤ (-1 : BitVec Width.w64.bits).toNat := by decide

theorem witness_InvOddInvertsUnderBlockMasks :
    (1 : BitVec Width.w32.bits).getLsbD 0 = true ∧ 0 ≤ Width.w32.bits ∧ (-1 : BitVec Width.w64.bits).getLsbD 0 = true ∧
    64 ≤ Width.w64.bits := by decide

/-- What the statement asks, at an odd number and a mask without holes; log 13 has the mask with a hole. -/
theorem witness_InvOddInvertsUnderEveryMask :
    (3 : BitVec Width.w32.bits).getLsbD 0 = true ∧
    ((3 : BitVec Width.w32.bits) * invOdd 3 0xFF) &&& 0xFF = 1#Width.w32.bits &&& 0xFF := by decide

theorem witness_InvXorShiftInvertsTheXorShift :
    (1 ≤ 7 ∧ 1 ≤ 7 ∧ 7 ≤ Width.w32.bits ∧ (0x7F : BitVec Width.w32.bits).toNat < 2 ^ 7) ∧
    (-1 : BitVec Width.w64.bits).toNat < 2 ^ 64 := by decide

theorem boundedConfig_a32 : a32.BoundedConfig := by constructor <;> decide

theorem boundedConfig_a64 : a64.BoundedConfig := by constructor <;> decide

theorem witness_BoundedRoundIsMultiplyAddXorShift : a32.BoundedConfig ∧ a64.BoundedConfig :=
  ⟨boundedConfig_a32, boundedConfig_a64⟩

theorem witness_BoundedInverseRoundIsExact :
    a32.BoundedConfig ∧ (127 : BitVec 32).toNat < 2 ^ a32.kbits.toNat := ⟨boundedConfig_a32, by decide⟩

theorem witness_WalkReturnsTheFirstPassBelowN :
    a32.nreg.toNat ≤ 2 ^ a32.kbits.toNat ∧ walk b32 (passFwd b32) 7 = some (16, 6) ∧
    b32.nreg.toNat ≤ 2 ^ b32.kbits.toNat ∧ walk b32 (passFwd b32) 26 = none := by decide

theorem multipliersInv_full64 : full64.MultipliersInv := by constructor <;> decide

theorem witness_FullWordDecodeInvertsEncode : reference64.Wf ∧ full64.MultipliersInv :=
  ⟨reference64_wf, multipliersInv_full64⟩

/-! The invariant in READY, once per variant class. -/

theorem inv_ready5 : (machine _ ready5).Inv where
  params := reference32_wf
  kpe :=
    { status := by constructor <;> decide
      multipliers := by constructor <;> decide
      domain := by constructor <;> decide
      table := fun _ _ => ⟨tableInRange_iff.mp (by decide), tableDistinct_iff.mp (by decide), by decide⟩
      iterator := by constructor <;> decide }
  held := by decide

theorem inv_a32 : (machine _ a32).Inv where
  params := reference32_wf
  kpe :=
    { status := by constructor <;> decide
      multipliers := by constructor <;> decide
      domain := by constructor <;> decide
      table := by intro _ h; exact absurd h (by decide)
      iterator := by constructor <;> decide }
  held := by decide

theorem inv_full64 : (machine _ full64).Inv where
  params := reference64_wf
  kpe :=
    { status := by constructor <;> decide
      multipliers := multipliersInv_full64
      domain := by constructor <;> decide
      table := by intro _ h; exact absurd h (by decide)
      iterator := by constructor <;> decide }
  held := by decide

/-- A32 after other commands: other results, another iterator and a key beyond ROUNDS. -/
def a32Later : Kpe reference32 := { a32.setIterator 5 true with res0 := 9, k1 := ramSet a32.k1 3 7 }

theorem inv_a32Later : a32Later.Inv where
  status := by constructor <;> decide
  multipliers := by constructor <;> decide
  domain := by constructor <;> decide
  table := by intro _ h; exact absurd h (by decide)
  iterator := by constructor <;> decide

/-- The hypotheses of `encodeCommand_loaded` (R112) are met by two different KPEs. -/
theorem witness_encodeCommand_loaded :
    (a32.SameLoaded a32Later ∧ a32 ≠ a32Later) ∧ a32.Inv ∧ a32Later.Inv ∧ a32.status.state = .ready ∧
    a32Later.status.state = .ready ∧ a32.arg0 = a32Later.arg0 :=
  ⟨⟨by constructor <;> decide, by decide⟩, inv_a32.kpe, inv_a32Later, by decide, by decide, by decide⟩

/-- A command in flight in a state of a run. -/
theorem inv_inFlight : (machine _ (inFlight 0x110)).Inv where
  params := reference32_wf
  kpe :=
    { status := by constructor <;> decide
      multipliers := by constructor <;> decide
      domain := by constructor <;> decide
      table := by intro h; exact absurd h (by decide)
      iterator := by constructor <;> decide }
  held := by decide

/-- The last element of each domain. -/
theorem witness_DecodeOfEncodeIsTheArgument :
    ((machine _ ready5).Inv ∧ (machine _ ready5).kpe.status.state = .ready ∧ ready5.inDomain 4) ∧
    ((machine _ a32).Inv ∧ (machine _ a32).kpe.status.state = .ready ∧ a32.inDomain 99) ∧
    ((machine _ full64).Inv ∧ (machine _ full64).kpe.status.state = .ready ∧ full64.inDomain (ones 64)) :=
  ⟨⟨inv_ready5, by decide, .inr (by decide)⟩, ⟨inv_a32, by decide, .inr (by decide)⟩, ⟨inv_full64, by decide, .inl (by decide)⟩⟩

theorem witness_WalkFailsExactlyOnCyclesOutsideTheDomain :
    ((machine _ a32).Inv ∧ (machine _ a32).kpe.status.state = .ready ∧ a32.variant = .bhalf) ∧
    Instr.encC ∈ [Instr.encC, .decC, .itnext] ∧ ∃ t, exec .encC (machine _ a32) = .next t :=
  ⟨⟨inv_a32, by decide⟩, by decide, _, rfl⟩

theorem witness_ReadyConfigurationIsSound :
    ((machine _ a32).Inv ∧ (machine _ a32).kpe.status.state = .ready ∧ a32.variant = .bhalf) ∧
    ((machine _ full64).Inv ∧ (machine _ full64).kpe.status.state = .ready ∧ full64.variant = .fullw) ∧
    ((machine _ ready5).Inv ∧ (machine _ ready5).kpe.status.state = .ready ∧ ready5.variant = .table ∧ 4 < ready5.nreg.toNat) :=
  ⟨⟨inv_a32, by decide⟩, ⟨inv_full64, by decide⟩, ⟨inv_ready5, by decide⟩⟩

theorem witness_InverseRegistersAlwaysHoldTheInverses :
    reference32.Wf ∧ (machine _ a32).kpe.MultipliersInv ∧ (∃ t, step (machine _ a32) = .next t) ∧
    ∃ t, exec .cfg (machine _ a32) = .next t :=
  ⟨reference32_wf, inv_a32.kpe.multipliers, ⟨_, rfl⟩, _, rfl⟩

theorem witness_EveryStepKeepsTheInvariant :
    (machine _ (inFlight 0x110)).Inv ∧ ∃ t, step (machine _ (inFlight 0x110)) = .next t := ⟨inv_inFlight, _, rfl⟩

theorem witness_ResetMeetsTheInvariant : reference32.Wf ∧ reference64.Wf := ⟨reference32_wf, reference64_wf⟩

theorem witness_NoStepStopsAndCommandsComplete :
    (machine _ (inFlight 0x110)).Inv ∧ (machine _ (inFlight 0x110)).rst = false ∧ (machine _ (inFlight 0x110)).inputs = [] ∧
    (machine _ (inFlight 0x110)).kpe.status.busy = true := ⟨inv_inFlight, by decide⟩

/-- ENCODE 4 on the Table N = 5. -/
theorem witness_EncodeLineReadsTheResult :
    reference32.Wf ∧ (machine _ ready5).rst = false ∧ (machine _ ready5).kpe.status.busy = false ∧
    ∃ k : Kpe reference32, exec .encC { machine _ ready5 with
      inputs := [.poll, .read (reference32.base + 6 * (reference32.w / 8)) (reference32.w / 8)]
      kpe := { ready5 with
        arg0 := 4
        cmd := 0x110#reference32.w
        status := { ready5.status with busy := true, done := false, err := false, ecode := .ok } }
      rdata := statusWord reference32.w { ready5.status with busy := true, done := false, err := false, ecode := .ok } } =
      .next { machine _ ready5 with
        inputs := [.poll, .read (reference32.base + 6 * (reference32.w / 8)) (reference32.w / 8)]
        kpe := k
        rdata := statusWord reference32.w { ready5.status with busy := true, done := false, err := false, ecode := .ok } } :=
  ⟨reference32_wf, by decide, by decide, _, rfl⟩

end Sys2Proof.Machine.Tests
end

section
/-! What a successful command leaves of the KPE, said once for every command. -/

namespace Sys2Proof.Machine

open Sys2Proof.Config

variable {p : Params} {k k' : Kpe p}

/-- The commands whose success writes RES0 to RES2 alone. -/
def onlyReturns : Instr → Bool
  | .keyrdK1 _ | .keyrdK2 _ | .tblrdFwd _ | .tblrdInv _ | .encU | .encC | .decU | .decC | .block | .invodd
  | .invxs => true
  | .nop | .cfg | .mulwrC | .mulwrC1 | .mulwrC2 | .keywrK1 _ | .keywrK2 _ | .tblwr _ | .arm | .itstart | .itnext
  | .srst => false

/-- `k.Succeeds i k'`: the command `i` can succeed on `k` with `k'`, before its completion sets STATUS (R40). -/
inductive Kpe.Succeeds (k : Kpe p) : Instr → Kpe p → Prop
  | nop : k.Succeeds .nop k
  | cfg (rounds : Nat) (hpos : 0 ≤ k.arg1.toInt)
      (hr : rounds = resolveRounds (classify k.arg0).1 (classify k.arg0).2.toNat k.arg1.toNat) (hle : rounds ≤ p.rMax) :
      k.Succeeds .cfg (k.configured (classify k.arg0).1 (classify k.arg0).2 rounds)
  | mulwr (sel : MulSel) (hs : k.status.state ≠ .ready) (hodd : k.arg0.getLsbD 0 = true) :
      k.Succeeds (mulwrOf sel) (k.setMultiplier sel k.arg0)
  | keywr (sel : KeySel) (idx : Nat) (hs : k.status.state = .loading) (hok : k.keyIndexOk sel idx = true) :
      k.Succeeds (keywrOf sel idx) (k.setKey sel idx k.arg0)
  | tblwr (idx : Nat) (hs : k.status.state = .loading) (hv : k.variant = .table) (hlt : idx < k.nreg.toNat) :
      k.Succeeds (.tblwr idx) { k with fwd := ramSet k.fwd idx k.arg0 }
  | armTable (hs : k.status.state ≠ .unconf) (hv : k.variant = .table) (hr : k.tableInRange = true)
      (hd : k.tableDistinct = true) :
      k.Succeeds .arm ({ k with inv := k.buildInverse k.nreg.toNat }.setState .ready)
  | armOther (hs : k.status.state ≠ .unconf) (hv : k.variant ≠ .table) : k.Succeeds .arm (k.setState .ready)
  | itstart (valid : Bool) (hs : k.status.state = .ready)
      (hd : k.variant ≠ .fullw → k.arg0 ≤ k.nreg ∧ valid = decide (k.arg0 < k.nreg)) :
      k.Succeeds .itstart (k.setIterator k.arg0 valid)
  | itnext (y n : p.Word) (hs : k.status.state = .ready) (hv : k.status.itv = true) :
      k.Succeeds .itnext ((k.setResults y n k.iter).advanceIterator k.iter)
  | returned (i : Instr) (hi : onlyReturns i = true) (a b c : p.Word) : k.Succeeds i (k.setResults a b c)
  | srst : k.Succeeds .srst (Kpe.reset p)

/-- Every success is one of these: the lemmas of Laws/Commands.lean, gathered. -/
theorem succeeds_of_replyOf {i : Instr} (h : replyOf i k = .ok k') : k.Succeeds i k' := by
  cases i with
  | nop => cases h; exact .nop
  | cfg => obtain ⟨hpos, hle, rfl⟩ := configure_ok h; exact .cfg _ hpos rfl hle
  | mulwrC => obtain ⟨hs, hodd, rfl⟩ := writeMultiplier_ok h; exact .mulwr .c hs hodd
  | mulwrC1 => obtain ⟨hs, hodd, rfl⟩ := writeMultiplier_ok h; exact .mulwr .c1 hs hodd
  | mulwrC2 => obtain ⟨hs, hodd, rfl⟩ := writeMultiplier_ok h; exact .mulwr .c2 hs hodd
  | keywrK1 idx => obtain ⟨hs, hok, rfl⟩ := writeKey_ok h; exact .keywr .k1 idx hs hok
  | keywrK2 idx => obtain ⟨hs, hok, rfl⟩ := writeKey_ok h; exact .keywr .k2 idx hs hok
  | keyrdK1 idx | keyrdK2 idx => obtain ⟨-, -, rfl⟩ := readKey_ok h; exact .returned _ rfl _ k.res1 k.res2
  | tblwr idx => obtain ⟨hs, hv, hlt, rfl⟩ := writeTable_ok h; exact .tblwr idx hs hv hlt
  | tblrdFwd idx | tblrdInv idx =>
    obtain ⟨-, -, -, rfl⟩ := readTable_ok h; exact .returned _ rfl _ k.res1 k.res2
  | arm =>
    obtain ⟨hs, ⟨hv, hr, hd, rfl⟩ | ⟨hv, rfl⟩⟩ := armKpe_ok h
    · exact .armTable hs hv hr hd
    · exact .armOther hs hv
  | encU | encC => obtain ⟨-, -, y, n, -, rfl⟩ := encodeCommand_ok h; exact .returned _ rfl y n 0
  | decU | decC => obtain ⟨-, -, y, n, -, rfl⟩ := decodeCommand_ok h; exact .returned _ rfl y n 0
  | itstart =>
    obtain ⟨hs, ⟨hv, rfl⟩ | ⟨-, hle, rfl⟩⟩ := startIterator_ok h
    · exact .itstart true hs fun hn => absurd hv hn
    · exact .itstart _ hs fun _ => ⟨hle, rfl⟩
  | itnext => obtain ⟨hs, hv, y, n, -, rfl⟩ := nextElement_ok h; exact .itnext y n hs hv
  | block =>
    obtain ⟨-, he⟩ | ⟨-, he⟩ := blockCommand_cases k <;> cases he.symm.trans h
    exact .returned _ rfl _ _ _
  | invodd =>
    obtain ⟨-, he⟩ | ⟨-, he⟩ := invoddCommand_cases k <;> cases he.symm.trans h
    exact .returned _ rfl _ _ _
  | invxs =>
    obtain ⟨-, he⟩ | ⟨-, -, -, he⟩ := invxsCommand_cases k <;> cases he.symm.trans h
    exact .returned _ rfl _ _ _
  | srst => cases h; exact .srst

/-- A failing command reports a code (R201, R202). -/
theorem replyOf_fail_ne_ok {i : Instr} {e : ErrCode} (h : replyOf i k = .fail e) : e ≠ .ok := by
  cases i with
  | nop | srst => cases h
  | cfg => obtain rfl := configure_fail h; decide
  | mulwrC | mulwrC1 | mulwrC2 => obtain ⟨rfl, -⟩ | ⟨rfl, -⟩ := writeMultiplier_fail h <;> decide
  | keywrK1 | keywrK2 => obtain ⟨rfl, -⟩ | ⟨rfl, -⟩ | ⟨rfl, -⟩ := writeKey_fail h <;> decide
  | keyrdK1 | keyrdK2 => obtain ⟨rfl, -⟩ | ⟨rfl, -⟩ := readKey_fail h <;> decide
  | tblwr => obtain ⟨rfl, -⟩ | ⟨rfl, -⟩ | ⟨rfl, -⟩ := writeTable_fail h <;> decide
  | tblrdFwd | tblrdInv => obtain ⟨rfl, -⟩ | ⟨rfl, -⟩ := readTable_fail h <;> decide
  | arm => obtain ⟨rfl, -⟩ | ⟨rfl, -⟩ := armKpe_fail h <;> decide
  | encU | encC => obtain ⟨rfl, -⟩ | ⟨rfl, -⟩ | ⟨rfl, -⟩ := encodeCommand_fail h <;> decide
  | decU | decC => obtain ⟨rfl, -⟩ | ⟨rfl, -⟩ | ⟨rfl, -⟩ := decodeCommand_fail h <;> decide
  | itstart => obtain ⟨rfl, -⟩ | ⟨rfl, -⟩ := startIterator_fail h <;> decide
  | itnext => obtain ⟨rfl, -⟩ | ⟨rfl, -⟩ | ⟨rfl, -⟩ := nextElement_fail h <;> decide
  | block => obtain ⟨-, he⟩ | ⟨-, he⟩ := blockCommand_cases k <;> cases he.symm.trans h; decide
  | invodd => obtain ⟨-, he⟩ | ⟨-, he⟩ := invoddCommand_cases k <;> cases he.symm.trans h; decide
  | invxs => obtain ⟨-, he⟩ | ⟨-, -, -, he⟩ := invxsCommand_cases k <;> cases he.symm.trans h; decide

theorem walkReply_ne_stop {w : Nat} (r : Option (BitVec w × Nat)) (f : Fault) : walkReply w r ≠ .stop f := by
  cases r <;> simp [walkReply]

/-- The datapath stops the model only with no variant (log 6). -/
theorem permute_stop {x : p.Word} {f : Fault} (h : permute k x = .stop f) : k.variant = .none := by
  cases hv : k.variant with
  | none => rfl
  | table | fullw => simp [permute, hv] at h
  | bhalf | bfull => simp [permute, hv, walkReply_ne_stop] at h

theorem unpermute_stop {y : p.Word} {f : Fault} (h : unpermute k y = .stop f) : k.variant = .none := by
  cases hv : k.variant with
  | none => rfl
  | table | fullw => simp [unpermute, hv] at h
  | bhalf | bfull => simp [unpermute, hv, walkReply_ne_stop] at h

theorem encodeCommand_stop {chk : Bool} {f : Fault} (h : encodeCommand k chk = .stop f) :
    k.status.state = .ready ∧ k.variant = .none := by
  simp only [encodeCommand] at h
  split at h
  · cases h
  · split at h
    · cases h
    · obtain ⟨_, _, -, h2⟩ | ⟨_, -, h2⟩ | ⟨_, h1, h2⟩ := withValue_cases (k := k) (permute k k.arg0) <;>
        cases h2.symm.trans h
      exact ⟨not_not.mp ‹_›, permute_stop h1⟩

theorem decodeCommand_stop {chk : Bool} {f : Fault} (h : decodeCommand k chk = .stop f) :
    k.status.state = .ready ∧ k.variant = .none := by
  simp only [decodeCommand] at h
  split at h
  · cases h
  · split at h
    · cases h
    · obtain ⟨_, _, -, h2⟩ | ⟨_, -, h2⟩ | ⟨_, h1, h2⟩ := withValue_cases (k := k) (unpermute k k.arg0) <;>
        cases h2.symm.trans h
      exact ⟨not_not.mp ‹_›, unpermute_stop h1⟩

theorem nextElement_stop {f : Fault} (h : nextElement k = .stop f) : k.status.state = .ready ∧ k.variant = .none := by
  simp only [nextElement] at h
  split at h
  · cases h
  · split at h
    · cases h
    · split at h <;> cases h
      exact ⟨not_not.mp ‹_›, permute_stop ‹_›⟩

/-- The model stops in READY with no variant alone (log 6). -/
theorem replyOf_stop {i : Instr} {f : Fault} (h : replyOf i k = .stop f) :
    k.status.state = .ready ∧ k.variant = .none := by
  cases i with
  | encU | encC => exact encodeCommand_stop h
  | decU | decC => exact decodeCommand_stop h
  | itnext => exact nextElement_stop h
  | nop | srst => cases h
  | cfg => simp only [replyOf, configure] at h; split_ifs at h
  | mulwrC | mulwrC1 | mulwrC2 => simp only [replyOf, writeMultiplier] at h; split_ifs at h
  | keywrK1 | keywrK2 => simp only [replyOf, writeKey] at h; split_ifs at h
  | keyrdK1 | keyrdK2 => simp only [replyOf, readKey] at h; split_ifs at h
  | tblwr => simp only [replyOf, writeTable] at h; split_ifs at h
  | tblrdFwd | tblrdInv => simp only [replyOf, readTable] at h; split_ifs at h
  | arm => simp only [replyOf, armKpe] at h; split_ifs at h
  | itstart => simp only [replyOf, startIterator] at h; split_ifs at h
  | block => obtain ⟨-, he⟩ | ⟨-, he⟩ := blockCommand_cases k <;> cases he.symm.trans h
  | invodd => obtain ⟨-, he⟩ | ⟨-, he⟩ := invoddCommand_cases k <;> cases he.symm.trans h
  | invxs => obtain ⟨-, he⟩ | ⟨-, -, -, he⟩ := invxsCommand_cases k <;> cases he.symm.trans h

end Sys2Proof.Machine
end

section
/-! What one step does to the KPE, said once: every statement about all steps splits `StepEffect`. -/

namespace Sys2Proof.Machine

open Sys2Proof.Config

/-- The engine has the turn: its entry comes first, or nothing is left to arrive (log 2). -/
def State.engineTurn (s : State) : Prop := s.inputs = [] ∨ s.inputs.head? = some .engine

/-- What a step from `s` can do to the KPE and the reset input: nothing, an edge of the reset input (R230), a bus access
outside reset (R61 to R63, R25 to R27), or the completion of the command in flight (R40, R201). -/
inductive StepEffect (s : State) : Kpe s.params → Bool → Prop
  | kept : StepEffect s s.kpe s.rst
  | reset (level : Bool)
      (hin : s.inputs.head? = some .resetOn ∨ (s.rst = true ∧ s.inputs.head? = some .resetOff)) :
      StepEffect s (Kpe.reset s.params) level
  | busError : StepEffect s s.kpe.busError false
  | written (r : Reg) (v : s.params.Word) : StepEffect s (writeReg s.kpe r v) false
  | succeeded (i : Instr) (k : Kpe s.params) (hr : s.rst = false) (hb : s.kpe.status.busy = true)
      (hturn : s.engineTurn) (hd : decode s.kpe.cmd = .ok i) (hk : s.kpe.Succeeds i k) : StepEffect s k.succeed false
  | failed (e : ErrCode) (he : e ≠ .ok) : StepEffect s (s.kpe.fail e) false

/-- `s.Becomes t`: `t` is `s` after a step's effect; the parameters stay. -/
def State.Becomes (s t : State) : Prop :=
  ∃ (k : Kpe s.params) (level : Bool) (inputs : List (Event s.params.w)) (rdata : s.params.Word),
    t = { s with kpe := k, rst := level, inputs := inputs, rdata := rdata } ∧ StepEffect s k level

/-- The engine's move from `s` with the arrivals cut to `rest`. -/
theorem becomes_of_engineMove {s t : State} {rest : List (Event s.params.w)} (hturn : s.engineTurn)
    (h : engineMove { s with inputs := rest } = .next t) : s.Becomes t := by
  obtain ⟨-, he⟩ | ⟨hr, hb, ⟨i, hd, he⟩ | ⟨_, -, he⟩⟩ := engineMove_cases { s with inputs := rest } <;> rw [he] at h
  · cases h
    exact ⟨_, _, _, _, rfl, .kept⟩
  · obtain ⟨k, hk, rfl⟩ | ⟨e, hk, rfl⟩ := exec_next h
    · exact ⟨k.succeed, false, rest, s.rdata, by rw [← hr]; rfl,
        .succeeded (s := s) i k hr hb hturn hd (succeeds_of_replyOf hk)⟩
    · exact ⟨s.kpe.fail e, false, rest, s.rdata, by rw [← hr]; rfl, .failed e (replyOf_fail_ne_ok hk)⟩
  · cases h
    exact ⟨s.kpe.fail .cmd, false, rest, s.rdata, by rw [← hr]; rfl, .failed .cmd (by decide)⟩

theorem becomes_of_busRead (s : State) (rest : List (Event s.params.w)) (addr bytes : Nat) :
    s.Becomes (busRead { s with inputs := rest } addr bytes) := by
  obtain he | ⟨d, he⟩ | ⟨hr, he⟩ := busRead_cases { s with inputs := rest } addr bytes <;> rw [he]
  · exact ⟨_, _, _, _, rfl, .kept⟩
  · exact ⟨_, _, _, _, rfl, .kept⟩
  · exact ⟨_, false, rest, 0, by rw [← hr], .busError⟩

theorem becomes_of_busWrite (s : State) (rest : List (Event s.params.w)) (addr bytes : Nat) (v : s.params.Word) :
    s.Becomes (busWrite { s with inputs := rest } addr bytes v) := by
  obtain he | ⟨hr, he⟩ | ⟨hr, r, he⟩ := busWrite_cases { s with inputs := rest } addr bytes v <;> rw [he]
  · exact ⟨_, _, _, _, rfl, .kept⟩
  · exact ⟨_, false, rest, s.rdata, by rw [← hr], .busError⟩
  · exact ⟨_, false, rest, s.rdata, by rw [← hr], .written r v⟩

theorem State.Becomes.withInputs {s t : State} (h : s.Becomes t) (inputs : List (Event t.params.w)) :
    s.Becomes { t with inputs := inputs } := by
  obtain ⟨k, level, _, rdata, rfl, heff⟩ := h
  exact ⟨k, level, inputs, rdata, rfl, heff⟩

/-- A poll is a bus read of STATUS that may put entries before the arrivals. -/
theorem becomes_of_pollStatus (s : State) (rest : List (Event s.params.w)) :
    s.Becomes (pollStatus { s with inputs := rest }) := by
  have h := becomes_of_busRead s rest (Reg.address s.params .status) s.params.wordBytes
  simp only [pollStatus]
  split
  · exact h.withInputs _
  · exact h

/-- The inversion of a step. -/
theorem becomes_of_step {s t : State} (h : step s = .next t) : s.Becomes t := by
  cases hin : s.inputs with
  | nil =>
    rw [step_nil hin] at h
    exact becomes_of_engineMove (rest := s.inputs) (.inl hin) h
  | cons e rest =>
    rw [step_cons hin] at h
    have hhead : s.inputs.head? = some e := by rw [hin]; rfl
    cases e with
    | read addr bytes => cases h; exact becomes_of_busRead s rest addr bytes
    | write addr bytes v => cases h; exact becomes_of_busWrite s rest addr bytes v
    | poll => cases h; exact becomes_of_pollStatus s rest
    | engine => exact becomes_of_engineMove (.inr hhead) h
    | resetOn => cases h; exact ⟨_, true, rest, s.rdata, rfl, .reset true (.inl hhead)⟩
    | resetOff =>
      simp only [handle] at h
      split at h <;> cases h
      · exact ⟨_, false, rest, s.rdata, rfl, .reset false (.inr ⟨‹_›, hhead⟩)⟩
      · exact ⟨_, _, _, _, rfl, .kept⟩

end Sys2Proof.Machine
end

section
/-! The invariants every step keeps: the multipliers with their inverses (R33), and the whole invariant of a run. -/

namespace Sys2Proof.Machine

open Sys2Proof.Config

variable {p : Params} {k k' : Kpe p}

/-! ### What the invariants read -/

/-- The registers the clause on the multipliers reads (R33). -/
def Kpe.multipliers (k : Kpe p) : List p.Word := [k.c, k.c1, k.c2, k.cinv, k.c1inv, k.c2inv, k.mask]

theorem Kpe.MultipliersInv.congr (h : k.MultipliersInv) (hm : k'.multipliers = k.multipliers) : k'.MultipliersInv := by
  simp only [Kpe.multipliers, List.cons.injEq, and_true] at hm
  obtain ⟨hc, hc1, hc2, hcinv, hc1inv, hc2inv, hmask⟩ := hm
  exact ⟨hc ▸ h.cOdd, hc1 ▸ h.c1Odd, hc2 ▸ h.c2Odd, by rw [hcinv, hc, hmask, h.cinvEq],
    by rw [hc1inv, hc1, h.c1invEq], by rw [hc2inv, hc2, h.c2invEq]⟩

/-- The KPE with everything at its reset value but what the invariant reads besides the completion's bits of STATUS: the
bus, the results and the keys are no part of it. -/
def Kpe.config (k : Kpe p) : Kpe p :=
  { k with
    status := { Status.reset with state := k.status.state, itv := k.status.itv }
    cmd := 0, arg0 := 0, arg1 := 0, arg2 := 0, res0 := 0, res1 := 0, res2 := 0
    k1 := Vector.replicate p.rMax 0, k2 := Vector.replicate p.rMax 0 }

theorem domainInv_config : k.config.DomainInv ↔ k.DomainInv :=
  ⟨fun h => ⟨h.noneIffUnconf, h.unconfigured, h.configured, h.tableRounds, h.mixRounds⟩,
    fun h => ⟨h.noneIffUnconf, h.unconfigured, h.configured, h.tableRounds, h.mixRounds⟩⟩

theorem tableInv_config : k.config.TableInv ↔ k.TableInv :=
  ⟨fun h => ⟨h.inRange, h.distinct, h.inverse⟩, fun h => ⟨h.inRange, h.distinct, h.inverse⟩⟩

theorem iteratorInv_config : k.config.IteratorInv ↔ k.IteratorInv :=
  ⟨fun h => ⟨h.notReady, h.finite⟩, fun h => ⟨h.notReady, h.finite⟩⟩

theorem inv_iff_config : k.Inv ↔ k.status.Inv ∧ k.config.Inv where
  mp h := ⟨h.status,
    { status := ⟨fun hb => (nomatch hb), by simp [Kpe.config, Status.reset]⟩
      multipliers := h.multipliers.congr rfl
      domain := domainInv_config.mpr h.domain
      table := fun hs hv => tableInv_config.mpr (h.table hs hv)
      iterator := iteratorInv_config.mpr h.iterator }⟩
  mpr h :=
    { status := h.1
      multipliers := h.2.multipliers.congr rfl
      domain := domainInv_config.mp h.2.domain
      table := fun hs hv => tableInv_config.mp (h.2.table hs hv)
      iterator := iteratorInv_config.mp h.2.iterator }

/-- A change outside the configuration keeps the invariant where it keeps that of STATUS. -/
theorem Kpe.Inv.congr (h : k.Inv) (hs : k'.status.Inv) (hc : k'.config = k.config) : k'.Inv :=
  inv_iff_config.mpr ⟨hs, hc ▸ (inv_iff_config.mp h).2⟩

/-! ### STATUS -/

theorem Status.Inv.congr {st st' : Status} (h : st.Inv) (hb : st'.busy = st.busy) (hd : st'.done = st.done)
    (he : st'.err = st.err) (hc : st'.ecode = st.ecode) : st'.Inv :=
  ⟨by rw [hb, hd, he, hc]; exact h.inFlight, by rw [he, hc]; exact h.errIffCode⟩

theorem Status.inv_issued (st : Status) : st.issued.Inv := ⟨fun _ => ⟨rfl, rfl, rfl⟩, by simp⟩

theorem Status.inv_succeeded (st : Status) : st.succeeded.Inv := ⟨fun h => (nomatch h), by simp⟩

theorem Status.inv_failed (st : Status) {e : ErrCode} (he : e ≠ .ok) : (st.failed e).Inv :=
  ⟨fun h => (nomatch h), by simpa using he⟩

/-! ### Reset -/

theorem reset_multipliersInv (hp : p.Wf) : (Kpe.reset p).MultipliersInv :=
  ⟨hp.c_odd, hp.c1_odd, hp.c2_odd, rfl, rfl, rfl⟩

theorem reset_inv (hp : p.Wf) : (Kpe.reset p).Inv where
  status := ⟨fun h => (nomatch h), by simp [Kpe.reset, Status.reset]⟩
  multipliers := reset_multipliersInv hp
  domain :=
    { noneIffUnconf := iff_of_true rfl rfl
      unconfigured := fun _ => ⟨rfl, rfl, rfl, rfl, rfl, rfl⟩
      configured := fun h => absurd rfl h
      tableRounds := fun _ => rfl
      mixRounds := fun h => absurd rfl h }
  table := fun h => nomatch h
  iterator := ⟨fun _ => ⟨rfl, rfl⟩, fun _ => ⟨Nat.zero_le _, fun h => nomatch h⟩⟩

/-! ### Bus writes -/

theorem writeReg_config (r : Reg) (v : p.Word) : (writeReg k r v).config = k.config := by
  obtain h | h | ⟨-, h⟩ | ⟨-, h | h | h | h⟩ := writeReg_cases k r v <;> rw [h] <;> rfl

theorem writeReg_multipliers (r : Reg) (v : p.Word) : (writeReg k r v).multipliers = k.multipliers := by
  have h := congrArg Kpe.multipliers (writeReg_config (k := k) r v)
  exact h

theorem writeReg_statusInv (h : k.status.Inv) (r : Reg) (v : p.Word) : (writeReg k r v).status.Inv := by
  obtain he | he | ⟨-, he⟩ | ⟨-, he | he | he | he⟩ := writeReg_cases k r v <;> rw [he]
  · exact h.congr rfl rfl rfl rfl
  · exact h.congr rfl rfl rfl rfl
  · exact h.congr rfl rfl rfl rfl
  · exact Status.inv_issued _
  · exact h
  · exact h
  · exact h

/-! ### CFG -/

theorem classify_ne_none {w : Nat} (v : BitVec w) : (classify v).1 ≠ .none := by
  unfold classify
  split_ifs <;> simp

/-- The selector gives a Table for the sizes 0 to 16 alone (R101). -/
theorem classify_table_le {w : Nat} {v : BitVec w} (h : (classify v).1 = .table) : (classify v).2.toNat ≤ 16 := by
  unfold classify at h ⊢
  split_ifs at h ⊢ with h1 h2 h3
  have hpos : 0 ≤ v.toInt := by simp only [signed] at h1 h2; omega
  have hnat : v.toInt = v.toNat := BitVec.toInt_eq_toNat_of_lt (by
    by_contra hn
    rw [BitVec.toInt_eq_toNat_cond, if_neg hn] at hpos
    have := v.isLt
    omega)
  simp only [signed] at h3
  show v.toNat ≤ 16
  omega

theorem resolveRounds_pos {v : Variant} (n r : Nat) (hn : v ≠ .none) (ht : v ≠ .table) :
    1 ≤ resolveRounds v n r := by
  cases v with
  | none => exact absurd rfl hn
  | table => exact absurd rfl ht
  | bhalf | bfull | fullw =>
    simp only [resolveRounds, defaultRounds]
    split_ifs <;> omega

theorem rMax_lt (hp : p.Wf) : p.rMax < 2 ^ p.w := by
  have hle := hp.rMax_le
  cases h : p.width <;> simp only [Params.w, h, Width.bits] <;> omega

/-- A round count within R_MAX fits ROUNDS (R32). -/
theorem toNat_rounds (hp : p.Wf) {rounds : Nat} (h : rounds ≤ p.rMax) : (BitVec.ofNat p.w rounds).toNat = rounds := by
  have := rMax_lt hp
  rw [BitVec.toNat_ofNat, Nat.mod_eq_of_lt (by omega)]

theorem configured_domainInv (hp : p.Wf) {rounds : Nat}
    (hr : rounds = resolveRounds (classify k.arg0).1 (classify k.arg0).2.toNat k.arg1.toNat) (hle : rounds ≤ p.rMax) :
    (k.configured (classify k.arg0).1 (classify k.arg0).2 rounds).DomainInv where
  noneIffUnconf := iff_of_false (classify_ne_none _) (by simp [Kpe.configured])
  unconfigured h := absurd h (classify_ne_none _)
  configured _ := ⟨rfl, rfl, rfl, rfl⟩
  tableRounds h := by
    have hv : (classify k.arg0).1 = .table := h
    simp [Kpe.configured, hr, hv, resolveRounds]
  mixRounds hn ht := by
    show 1 ≤ (BitVec.ofNat p.w rounds).toNat ∧ (BitVec.ofNat p.w rounds).toNat ≤ p.rMax
    rw [toNat_rounds hp hle]
    exact ⟨hr ▸ resolveRounds_pos _ _ hn ht, hle⟩

theorem configured_keeps_inv (h : k.Inv) (hp : p.Wf) {rounds : Nat}
    (hr : rounds = resolveRounds (classify k.arg0).1 (classify k.arg0).2.toNat k.arg1.toNat) (hle : rounds ≤ p.rMax) :
    (k.configured (classify k.arg0).1 (classify k.arg0).2 rounds).Inv where
  status := h.status.congr rfl rfl rfl rfl
  multipliers :=
    have hm := h.multipliers
    ⟨hm.cOdd, hm.c1Odd, hm.c2Odd, rfl, hm.c1invEq, hm.c2invEq⟩
  domain := configured_domainInv hp hr hle
  table hs := nomatch hs
  iterator := ⟨fun _ => ⟨rfl, rfl⟩, fun _ => ⟨Nat.zero_le _, fun hv => nomatch hv⟩⟩

/-! ### MULWR and ARM -/

theorem setMultiplier_multipliersInv (h : k.MultipliersInv) (sel : MulSel) {v : p.Word} (hv : v.getLsbD 0 = true) :
    (k.setMultiplier sel v).MultipliersInv := by
  cases sel with
  | c => exact ⟨hv, h.c1Odd, h.c2Odd, rfl, h.c1invEq, h.c2invEq⟩
  | c1 => exact ⟨h.cOdd, hv, h.c2Odd, h.cinvEq, rfl, h.c2invEq⟩
  | c2 => exact ⟨h.cOdd, h.c1Odd, hv, h.cinvEq, h.c1invEq, rfl⟩

/-- MULWR leaves everything but the multipliers. -/
theorem setMultiplier_keeps_inv (h : k.Inv) (sel : MulSel) {v : p.Word} (hv : v.getLsbD 0 = true) :
    (k.setMultiplier sel v).Inv := by
  have hm := setMultiplier_multipliersInv h.multipliers sel hv
  obtain ⟨hst, -, hd, ht, hi⟩ := h
  cases sel <;>
    exact ⟨hst, hm, ⟨hd.noneIffUnconf, hd.unconfigured, hd.configured, hd.tableRounds, hd.mixRounds⟩,
      fun hs hv => ⟨(ht hs hv).inRange, (ht hs hv).distinct, (ht hs hv).inverse⟩, ⟨hi.notReady, hi.finite⟩⟩

/-- The loop of ARM writes the inverse of the entries it has passed, when they differ and fit INV (R109). -/
theorem buildInverse_get {n : Nat} (hr : ∀ i, i < n → (ramGet k.fwd i).toNat < 16)
    (hd : ∀ i j, i < j → j < n → ramGet k.fwd i ≠ ramGet k.fwd j) :
    ∀ i, i < n → ramGet (k.buildInverse n) (ramGet k.fwd i).toNat = BitVec.ofNat p.w i := by
  induction n with
  | zero => intro i hi; omega
  | succ n ih =>
    intro i hi
    rw [Kpe.buildInverse]
    by_cases hin : i = n
    · subst hin
      exact ramGet_ramSet_same _ _ (hr i hi)
    · have hne : (ramGet k.fwd i).toNat ≠ (ramGet k.fwd n).toNat := fun he =>
        hd i n (by omega) (by omega) (BitVec.eq_of_toNat_eq he)
      rw [ramGet_ramSet_ne _ _ hne]
      exact ih (fun i hi => hr i (by omega)) (fun i j hij hj => hd i j hij (by omega)) i (by omega)

theorem Kpe.DomainInv.table_le (h : k.DomainInv) (hv : k.variant = .table) : k.nreg.toNat ≤ 16 := by
  obtain ⟨hc, -⟩ := h.configured (by rw [hv]; decide)
  have hle := classify_table_le (v := k.size) (by rw [hc]; exact hv)
  rwa [hc] at hle

/-- What ARM leaves, with `ram` in INV: nothing else of the configuration changes but STATE. -/
theorem arm_keeps_inv (h : k.Inv) (hs : k.status.state ≠ .unconf) {ram : Vector p.Word 16}
    (ht : k.variant = .table → { k with inv := ram }.TableInv) : ({ k with inv := ram }.setState .ready).Inv where
  status := h.status.congr rfl rfl rfl rfl
  multipliers := h.multipliers.congr rfl
  domain :=
    { noneIffUnconf := iff_of_false (fun hv => hs (h.domain.noneIffUnconf.mp hv)) (by simp)
      unconfigured := h.domain.unconfigured
      configured := h.domain.configured
      tableRounds := h.domain.tableRounds
      mixRounds := h.domain.mixRounds }
  table _ hv := ⟨(ht hv).inRange, (ht hv).distinct, (ht hv).inverse⟩
  iterator := ⟨fun hn => absurd rfl hn, h.iterator.finite⟩

/-- The checks of ARM and its loop give the permutation with its inverse (R38 (3), R109). -/
theorem buildInverse_tableInv (h : k.DomainInv) (hv : k.variant = .table) (hr : k.tableInRange = true)
    (hd : k.tableDistinct = true) : { k with inv := k.buildInverse k.nreg.toNat }.TableInv := by
  rw [tableInRange_iff] at hr
  rw [tableDistinct_iff] at hd
  have hle := h.table_le hv
  exact ⟨hr, hd, buildInverse_get (fun i hi => lt_of_lt_of_le (BitVec.lt_def.mp (hr i hi)) hle) hd⟩

/-! ### The iterator -/

/-- ITSTART and ITNEXT in READY: an iterator within the domain. -/
theorem setIterator_keeps_inv (h : k.Inv) (hs : k.status.state = .ready) {i : p.Word} {valid : Bool}
    (hi : k.variant ≠ .fullw → i ≤ k.nreg ∧ (valid = true → i < k.nreg)) : (k.setIterator i valid).Inv where
  status := h.status.congr rfl rfl rfl rfl
  multipliers := h.multipliers.congr rfl
  domain :=
    have hd := h.domain
    ⟨hd.noneIffUnconf, hd.unconfigured, hd.configured, hd.tableRounds, hd.mixRounds⟩
  table _ hv :=
    have ht := h.table hs hv
    ⟨ht.inRange, ht.distinct, ht.inverse⟩
  iterator := ⟨fun hn => absurd hs hn, hi⟩

theorem add_one_le_of_lt {w : Nat} {i n : BitVec w} (h : i < n) : i + 1#w ≤ n := by
  rw [BitVec.lt_def] at h
  have hn := n.isLt
  have hw : 1 < 2 ^ w := by omega
  rw [BitVec.le_def, BitVec.toNat_add, BitVec.toNat_ofNat, Nat.mod_eq_of_lt hw, Nat.mod_eq_of_lt (by omega)]
  omega

theorem advanceIterator_keeps_inv (h : k.Inv) (hs : k.status.state = .ready) (hv : k.status.itv = true) :
    (k.advanceIterator k.iter).Inv := by
  unfold Kpe.advanceIterator
  split_ifs with hf
  · exact setIterator_keeps_inv h hs fun hn => absurd hf hn
  · exact setIterator_keeps_inv h hs fun hn => absurd hf hn
  · exact setIterator_keeps_inv h hs fun hn =>
      ⟨add_one_le_of_lt ((h.iterator.finite hn).2 hv), fun hd => of_decide_eq_true hd⟩

/-! ### Commands -/

theorem Kpe.Succeeds.multipliersInv {i : Instr} (hk : k.Succeeds i k') (hp : p.Wf) (h : k.MultipliersInv) :
    k'.MultipliersInv := by
  cases hk with
  | nop => exact h
  | cfg => exact ⟨h.cOdd, h.c1Odd, h.c2Odd, rfl, h.c1invEq, h.c2invEq⟩
  | mulwr sel _ hodd => exact setMultiplier_multipliersInv h sel hodd
  | keywr sel => cases sel <;> exact h.congr rfl
  | itnext y n =>
    obtain ⟨j, v, he⟩ := advanceIterator_eq (k := k.setResults y n k.iter) k.iter
    rw [he]
    exact h.congr rfl
  | tblwr | armTable | armOther | itstart | returned => exact h.congr rfl
  | srst => exact reset_multipliersInv hp

/-- The invariant of a run is kept by every success, before its completion sets STATUS. -/
theorem Kpe.Succeeds.inv {i : Instr} (hk : k.Succeeds i k') (hp : p.Wf) (h : k.Inv) : k'.Inv := by
  cases hk with
  | nop => exact h
  | cfg rounds _ hr hle => exact configured_keeps_inv h hp hr hle
  | mulwr sel _ hodd => exact setMultiplier_keeps_inv h sel hodd
  | keywr sel => cases sel <;> exact h.congr h.status rfl
  | tblwr idx hs =>
    have hn : k.status.state ≠ .ready := by rw [hs]; decide
    obtain ⟨hst, hm, hd, -, hi⟩ := h
    exact ⟨hst, hm.congr rfl, ⟨hd.noneIffUnconf, hd.unconfigured, hd.configured, hd.tableRounds, hd.mixRounds⟩,
      fun hr => absurd hr hn, ⟨hi.notReady, hi.finite⟩⟩
  | armTable hs hv hr hd => exact arm_keeps_inv h hs fun _ => buildInverse_tableInv h.domain hv hr hd
  | armOther hs hv => exact arm_keeps_inv h hs (ram := k.inv) fun ht => absurd ht hv
  | itstart valid hs hd =>
    refine setIterator_keeps_inv h hs fun hn => ⟨(hd hn).1, fun hv => ?_⟩
    rw [(hd hn).2] at hv
    exact of_decide_eq_true hv
  | itnext y n hs hv => exact advanceIterator_keeps_inv (k := k.setResults y n k.iter) (h.congr h.status rfl) hs hv
  | returned => exact h.congr h.status rfl
  | srst => exact reset_inv hp

/-! ### Steps -/

theorem StepEffect.multipliersInv {s : State} {k : Kpe s.params} {level : Bool} (he : StepEffect s k level)
    (hp : s.params.Wf) (h : s.kpe.MultipliersInv) : k.MultipliersInv := by
  cases he with
  | kept => exact h
  | reset => exact reset_multipliersInv hp
  | written r v => exact h.congr (writeReg_multipliers r v)
  | succeeded i k _ _ _ _ hk => exact (hk.multipliersInv hp h).congr rfl
  | busError | failed => exact h.congr rfl

theorem StepEffect.inv {s : State} {k : Kpe s.params} {level : Bool} (he : StepEffect s k level)
    (hp : s.params.Wf) (h : s.kpe.Inv) : k.Inv := by
  cases he with
  | kept => exact h
  | reset => exact reset_inv hp
  | busError => exact h.congr (h.status.congr rfl rfl rfl rfl) rfl
  | written r v => exact h.congr (writeReg_statusInv h.status r v) (writeReg_config r v)
  | succeeded i k _ _ _ _ hk => exact (hk.inv hp h).congr (Status.inv_succeeded _) rfl
  | failed e hne => exact h.congr (Status.inv_failed _ hne) rfl

/-- While the reset input is asserted the KPE holds its reset values (log 10). -/
theorem StepEffect.held {s : State} {k : Kpe s.params} {level : Bool} (he : StepEffect s k level)
    (h : s.rst = true → s.kpe = Kpe.reset s.params) : level = true → k = Kpe.reset s.params := by
  cases he with
  | kept => exact h
  | reset => exact fun _ => rfl
  | busError | written | succeeded | failed => exact fun hl => nomatch hl

/-- CFG changes the KPE alone and keeps the multipliers (R33). -/
theorem exec_cfg_multipliers {s t : State} (h : exec .cfg s = .next t) :
    ∃ k : Kpe s.params, t = { s with kpe := k } ∧ k.c = s.kpe.c ∧ k.c1 = s.kpe.c1 ∧ k.c2 = s.kpe.c2 := by
  obtain ⟨k, hk, rfl⟩ | ⟨e, -, rfl⟩ := exec_next h
  · obtain ⟨-, -, rfl⟩ := configure_ok hk
    exact ⟨_, rfl, rfl, rfl, rfl⟩
  · exact ⟨_, rfl, rfl, rfl, rfl⟩

end Sys2Proof.Machine

open Sys2Proof.Machine

/-- Settles O56: a step keeps the multipliers with their inverses, CFG by rewriting CINV for its new MASK. -/
theorem inverseRegistersAlwaysHoldTheInverses : Obligations.InverseRegistersAlwaysHoldTheInverses := by
  unfold Obligations.InverseRegistersAlwaysHoldTheInverses
  refine ⟨fun s t hp hm h => ?_, fun p hp => reset_multipliersInv hp, fun s t h => exec_cfg_multipliers h⟩
  obtain ⟨k, level, inputs, rdata, rfl, he⟩ := becomes_of_step h
  exact he.multipliersInv hp hm

/-- Settles O57: each effect of a step keeps each clause of the invariant. -/
theorem everyStepKeepsTheInvariant : Obligations.EveryStepKeepsTheInvariant := by
  unfold Obligations.EveryStepKeepsTheInvariant
  intro s t hinv h
  obtain ⟨k, level, inputs, rdata, rfl, he⟩ := becomes_of_step h
  exact ⟨hinv.params, he.inv hinv.params hinv.kpe, he.held hinv.held⟩

end

section
/-! Full-width accesses to a register (R21, R25 to R27, R60): the state the step leaves. -/

namespace Sys2Proof.Machine

open Sys2Proof.Config

/-- A full-width read returns the register and changes nothing else (R65, R71). -/
theorem step_readReg {s : State} {rest : List (Event s.params.w)} (r : Reg) (hr : s.rst = false)
    (hin : s.inputs = .read (r.address s.params) s.params.wordBytes :: rest) :
    step s = .next { s with inputs := rest, rdata := readReg s.kpe r } := by
  simp [step_cons hin, handle, busRead, busTarget_address, hr]

/-- A full-width write is the write of the register. -/
theorem step_writeReg {s : State} {rest : List (Event s.params.w)} (r : Reg) (v : s.params.Word) (hr : s.rst = false)
    (hin : s.inputs = .write (r.address s.params) s.params.wordBytes v :: rest) :
    step s = .next { s with inputs := rest, kpe := writeReg s.kpe r v } := by
  simp [step_cons hin, handle, busWrite, busTarget_address, hr]

theorem writeReg_status {p : Params} (k : Kpe p) (v : p.Word) :
    writeReg k .status v = { k with
      status := { k.status with
        ovr := if v.getLsbD 12 then false else k.status.ovr
        buserr := if v.getLsbD 13 then false else k.status.buserr } } := by
  cases h12 : v.getLsbD 12 <;> cases h13 : v.getLsbD 13 <;> simp [writeReg, Status.cleared, h12, h13]

theorem writeReg_cmd_idle {p : Params} {k : Kpe p} (v : p.Word) (hb : k.status.busy = false) :
    writeReg k .cmd v = k.issue v := by simp [writeReg, hb]

theorem writeReg_cmd_busy {p : Params} {k : Kpe p} (v : p.Word) (hb : k.status.busy = true) :
    writeReg k .cmd v = k.overrun := by simp [writeReg, hb]

end Sys2Proof.Machine

open Sys2Proof.Machine

/-- Settles O9. -/
theorem statusWriteClearsStickyBits : Obligations.StatusWriteClearsStickyBits := by
  unfold Obligations.StatusWriteClearsStickyBits
  intro s rest v hr hin
  rw [step_writeReg .status v hr hin, writeReg_status]

/-- Settles O10: by the state of BUSY, the read-back and the reset value. -/
theorem cmdWriteIssuesTheCommand : Obligations.CmdWriteIssuesTheCommand := by
  unfold Obligations.CmdWriteIssuesTheCommand
  refine ⟨fun s rest v hr hin => ⟨fun hb => ?_, fun hb => ?_⟩, fun s rest hr hin => step_readReg .cmd hr hin, fun p => rfl⟩
  · rw [step_writeReg .cmd v hr hin, writeReg_cmd_idle v hb]
    rfl
  · rw [step_writeReg .cmd v hr hin, writeReg_cmd_busy v hb]
    rfl

/-- Settles O13: the table of the statement is the register map with the value `readReg` gives each register. -/
theorem registerMapReads : Obligations.RegisterMapReads := by
  unfold Obligations.RegisterMapReads
  intro s rest idx value hr hmem hin
  have hmap : (idx, value) ∈ allRegs.map fun r => (r.index, readReg s.kpe r) := hmem
  obtain ⟨r, -, hreg⟩ := List.mem_map.mp hmap
  cases hreg
  exact step_readReg r hr hin

end

section
/-! The engine's commands: what they leave alone (R23 to R28, R33, R35), and that each completes (R40, R200). -/

namespace Sys2Proof.Machine

open Sys2Proof.Config

variable {s t : State} {i : Instr}

/-- Nothing before the engine: the completion of the decoded word (R41). -/
theorem engineMove_decoded (hr : s.rst = false) (hb : s.kpe.status.busy = true) (hd : decode s.kpe.cmd = .ok i) :
    engineMove s = exec i s := by
  simp [engineMove, completeInFlight, hr, hb, hd]

/-- The commands that return nothing are not among those that only return. -/
theorem onlyReturns_eq_false
    (h : i ∈ [.nop, .cfg, .arm, .itstart] ∨ ∃ n, i ∈ [.keywrK1 n, .keywrK2 n, .tblwr n]) : onlyReturns i = false := by
  simp only [List.mem_cons, List.not_mem_nil, or_false] at h
  obtain (rfl | rfl | rfl | rfl) | ⟨n, rfl | rfl | rfl⟩ := h <;> rfl

/-- STATE changes under the success of SRST, of CFG and of ARM in LOADING alone (R24). -/
theorem Kpe.Succeeds.state_change {p : Params} {k k' : Kpe p} (hk : k.Succeeds i k')
    (hne : k'.status.state ≠ k.status.state) :
    (i = .srst ∧ k'.status.state = .unconf) ∨ (i = .cfg ∧ k'.status.state = .loading) ∨
      (i = .arm ∧ k.status.state = .loading ∧ k'.status.state = .ready) := by
  have harm (hs : k.status.state ≠ .unconf) (hr : .ready ≠ k.status.state) : k.status.state = .loading := by
    cases h : k.status.state <;> simp_all
  cases hk with
  | srst => exact .inl ⟨rfl, rfl⟩
  | cfg => exact .inr (.inl ⟨rfl, rfl⟩)
  | armTable hs | armOther hs => exact .inr (.inr ⟨rfl, harm hs hne, rfl⟩)
  | mulwr sel | keywr sel => cases sel <;> exact absurd rfl hne
  | itnext y n =>
    obtain ⟨j, v, he⟩ := advanceIterator_eq (k := k.setResults y n k.iter) k.iter
    rw [he] at hne
    exact absurd rfl hne
  | nop | tblwr | itstart | returned => exact absurd rfl hne

theorem exec_continues (i : Instr) (h : s.kpe.variant ≠ .none ∨ s.kpe.status.state ≠ .ready) : Continues (exec i s) := by
  rw [exec_eq_complete]
  cases hr : replyOf i s.kpe with
  | ok k => exact ⟨_, rfl⟩
  | fail e => exact ⟨_, rfl⟩
  | stop f =>
    obtain ⟨hs, hv⟩ := replyOf_stop hr
    simp [hs, hv] at h

theorem exec_completes (h : exec i s = .next t) : t.kpe.status.busy = false ∧ t.kpe.status.done = true := by
  obtain ⟨k, -, rfl⟩ | ⟨e, -, rfl⟩ := exec_next h <;> exact ⟨rfl, rfl⟩

/-- With a command in flight outside reset, the engine's move completes it. -/
theorem engineMove_completes (hr : s.rst = false) (hb : s.kpe.status.busy = true)
    (h : s.kpe.variant ≠ .none ∨ s.kpe.status.state ≠ .ready) :
    ∃ t, engineMove s = .next t ∧ t.kpe.status.busy = false ∧ t.kpe.status.done = true := by
  obtain ⟨hidle, -⟩ | ⟨-, -, ⟨i, -, he⟩ | ⟨_, -, he⟩⟩ := engineMove_cases s
  · simp [hr, hb] at hidle
  · obtain ⟨t, ht⟩ := exec_continues i h
    exact ⟨t, he.trans ht, exec_completes ht⟩
  · exact ⟨_, he, rfl, rfl⟩

theorem engineMove_continues (h : s.kpe.variant ≠ .none ∨ s.kpe.status.state ≠ .ready) : Continues (engineMove s) := by
  obtain ⟨-, he⟩ | ⟨hr, hb, -⟩ := engineMove_cases s
  · exact ⟨s, he⟩
  · obtain ⟨t, ht, -⟩ := engineMove_completes hr hb h
    exact ⟨t, ht⟩

/-- Only the engine's move can stop, so no step does outside READY with no variant (log 6). -/
theorem step_continues (h : s.kpe.variant ≠ .none ∨ s.kpe.status.state ≠ .ready) : Continues (step s) := by
  cases hin : s.inputs with
  | nil => rw [step_nil hin]; exact engineMove_continues h
  | cons e rest =>
    rw [step_cons hin]
    cases e with
    | engine => exact engineMove_continues (s := { s with inputs := rest }) h
    | resetOff => simp only [handle]; split <;> exact ⟨_, rfl⟩
    | read | write | poll | resetOn => exact ⟨_, rfl⟩

theorem Kpe.Inv.variant_or_state {p : Params} {k : Kpe p} (h : k.Inv) : k.variant ≠ .none ∨ k.status.state ≠ .ready :=
  or_iff_not_imp_right.mpr fun hr => h.variant_ne_none (not_not.mp hr)

end Sys2Proof.Machine

open Sys2Proof.Machine

/-- Settles O4. -/
theorem stepRunsTheDecodedCommand : Obligations.StepRunsTheDecodedCommand := by
  unfold Obligations.StepRunsTheDecodedCommand
  refine fun s i hr hb hd => ⟨fun hin => ?_, fun rest hin => ?_⟩
  · rw [step_nil hin, engineMove_decoded hr hb hd]
  · rw [step_cons hin]
    exact engineMove_decoded (s := { s with inputs := rest }) hr hb hd

/-- Settles O24: a failure changes STATUS alone, and each success writes what `Kpe.Succeeds` names. -/
theorem commandsWriteOnlyTheirOwnState : Obligations.CommandsWriteOnlyTheirOwnState := by
  unfold Obligations.CommandsWriteOnlyTheirOwnState
  intro s t i h
  obtain ⟨k, hk, rfl⟩ | ⟨e, -, rfl⟩ := exec_next h
  · refine ⟨k.succeed, rfl, ?_⟩
    cases succeeds_of_replyOf hk with
    | nop => simp
    | cfg => simp [Kpe.configured]
    | mulwr sel => cases sel <;> simp [mulwrOf, Kpe.setMultiplier]
    | keywr sel => cases sel <;> simp [keywrOf, Kpe.setKey]
    | tblwr | armTable | armOther | itstart => simp
    | itnext y n =>
      obtain ⟨j, v, he⟩ := advanceIterator_eq (k := s.kpe.setResults y n s.kpe.iter) s.kpe.iter
      simp [he]
    | returned i hi =>
      have hmem := mt onlyReturns_eq_false (by simpa using hi)
      simp [-List.mem_cons, hmem]
    | srst => simp
  · exact ⟨s.kpe.fail e, rfl, by simp⟩

/-- Settles O11: the three writes, the frame of the commands (O24), and the reset values. -/
theorem argWriteStoresTheOperand : Obligations.ArgWriteStoresTheOperand := by
  unfold Obligations.ArgWriteStoresTheOperand
  refine ⟨fun s rest v hr hb => ⟨fun hin => ?_, fun hin => ?_, fun hin => ?_⟩, fun s i k hi h => ?_,
    fun p => ⟨rfl, rfl, rfl⟩⟩
  · rw [step_writeReg .arg0 v hr hin]
    simp [writeReg, hb]
  · rw [step_writeReg .arg1 v hr hin]
    simp [writeReg, hb]
  · rw [step_writeReg .arg2 v hr hin]
    simp [writeReg, hb]
  · obtain ⟨k', he, hframe⟩ := commandsWriteOnlyTheirOwnState s _ i h
    cases he
    obtain ⟨-, harg0, harg1, harg2, -⟩ := hframe hi
    exact ⟨harg0, harg1, harg2⟩

/-- Settles O26: of a step's effects, only the reset and a success change STATE. -/
theorem configurationStateTransitions : Obligations.ConfigurationStateTransitions := by
  unfold Obligations.ConfigurationStateTransitions
  intro s t h hne
  obtain ⟨k, level, inputs, rdata, rfl, he⟩ := becomes_of_step h
  cases he with
  | kept | busError | failed => exact absurd rfl hne
  | reset _ hin => exact .inl ⟨rfl, hin⟩
  | written r v => exact absurd (congrArg (fun k => k.status.state) (writeReg_config (k := s.kpe) r v)) hne
  | succeeded i k hr hb hturn hd hk =>
    refine .inr ⟨hr, hb, hturn, rfl, ?_⟩
    rw [hd]
    obtain ⟨rfl, hs⟩ | ⟨rfl, hs⟩ | ⟨rfl, hl, hs⟩ := hk.state_change hne
    · exact .inl ⟨rfl, hs⟩
    · exact .inr (.inl ⟨rfl, hs⟩)
    · exact .inr (.inr ⟨rfl, hl, hs⟩)

/-- Settles O59: the invariant excludes READY with no variant, where alone the model stops (log 6). -/
theorem noStepStopsAndCommandsComplete : Obligations.NoStepStopsAndCommandsComplete := by
  unfold Obligations.NoStepStopsAndCommandsComplete
  refine ⟨fun s h => step_continues h.kpe.variant_or_state, fun s h hr hin hb => ?_⟩
  rw [step_nil hin]
  exact engineMove_completes hr hb h.kpe.variant_or_state

end

section
/-! The registers made of fields, bit by bit: STATUS (R23), CFGR (R31), ID (R22), XSHIFT (R34). -/

namespace Sys2Proof.Machine

open Sys2Proof.Config

/-! ### A field in a word -/

theorem fieldAt_getLsbD (w lo v i : Nat) :
    (fieldAt w lo v).getLsbD i = (decide (i < w) && (decide (lo ≤ i) && v.testBit (i - lo))) := by
  simp only [fieldAt, BitVec.getLsbD_shiftLeft, BitVec.getLsbD_ofNat]
  by_cases h : lo ≤ i
  · by_cases hw : i < w
    · have : i - lo < w := by omega
      simp [h, hw, this, Nat.not_lt.mpr h]
    · simp [hw]
  · simp [h, Nat.lt_of_not_le h]

/-- A field read at its own place. -/
theorem extract_fieldAt_same {w lo len : Nat} (v : Nat) (h : lo + len ≤ w) :
    (fieldAt w lo v).extractLsb' lo len = BitVec.ofNat len v := by
  apply BitVec.eq_of_getLsbD_eq
  intro i hi
  have hw : lo + i < w := by omega
  simp only [BitVec.getLsbD_extractLsb', BitVec.getLsbD_ofNat, fieldAt_getLsbD, hi, hw, decide_true, Bool.true_and,
    Nat.le_add_right, Nat.add_sub_cancel_left]

/-- A field that begins above the bits read. -/
theorem extract_fieldAt_above {w lo start len : Nat} (v : Nat) (h : start + len ≤ lo) :
    (fieldAt w lo v).extractLsb' start len = 0#len := by
  apply BitVec.eq_of_getLsbD_eq
  intro i hi
  have hlo : ¬ lo ≤ start + i := by omega
  simp [fieldAt_getLsbD, hlo]

theorem fieldAt_getLsbD_of_end_le {w lo len v i : Nat} (hv : v < 2 ^ len) (h : lo + len ≤ i) :
    (fieldAt w lo v).getLsbD i = false := by
  have hle : 2 ^ len ≤ 2 ^ (i - lo) := Nat.pow_le_pow_right (by omega) (by omega)
  simp [fieldAt_getLsbD, Nat.testBit_lt_two_pow (lt_of_lt_of_le hv hle)]

/-- A field that ends below the bits read. -/
theorem extract_fieldAt_below {w lo len' start len v : Nat} (hv : v < 2 ^ len') (h : lo + len' ≤ start) :
    (fieldAt w lo v).extractLsb' start len = 0#len := by
  apply BitVec.eq_of_getLsbD_eq
  intro i hi
  simp [fieldAt_getLsbD_of_end_le hv (show lo + len' ≤ start + i by omega)]

/-! ### The codes -/

theorem ConfigState.code_lt (c : ConfigState) : c.code < 2 ^ 2 := by cases c <;> decide

theorem Variant.code_lt (v : Variant) : v.code < 2 ^ 3 := by cases v <;> decide

theorem ErrCode.code_lt (e : ErrCode) : e.code < 2 ^ 4 := by cases e <;> decide

theorem ConfigState.code_testBit (c : ConfigState) {j : Nat} (h : 2 ≤ j) : c.code.testBit j = false :=
  Nat.testBit_lt_two_pow (lt_of_lt_of_le c.code_lt (Nat.pow_le_pow_right (by omega) h))

theorem ErrCode.code_testBit (e : ErrCode) {j : Nat} (h : 4 ≤ j) : e.code.testBit j = false :=
  Nat.testBit_lt_two_pow (lt_of_lt_of_le e.code_lt (Nat.pow_le_pow_right (by omega) h))

theorem flag_lt (b : Bool) : b.toNat < 2 ^ 1 := by cases b <;> decide

theorem width_cases (p : Params) : p.w = 32 ∨ p.w = 64 := by cases h : p.width <;> simp [Params.w, h, Width.bits]

/-! ### STATUS, CFGR, ID and XSHIFT -/

theorem statusWord_state (width : Width) (st : Status) :
    ((statusWord width.bits st).extractLsb' 2 2).toNat = st.state.code := by
  have hw : 2 + 2 ≤ width.bits := by cases width <;> decide
  simpa [statusWord, BitVec.extractLsb'_or, extract_fieldAt_same _ hw, extract_fieldAt_above,
    extract_fieldAt_below (flag_lt _)] using st.state.code_lt

theorem statusWord_ecode (width : Width) (st : Status) :
    ((statusWord width.bits st).extractLsb' 8 4).toNat = st.ecode.code := by
  have hw : 8 + 4 ≤ width.bits := by cases width <;> decide
  simpa [statusWord, BitVec.extractLsb'_or, extract_fieldAt_same _ hw, extract_fieldAt_above,
    extract_fieldAt_below (flag_lt _), extract_fieldAt_below st.state.code_lt] using st.ecode.code_lt

/-- A bit of STATUS: its one-bit fields, and the two codes by their bits. -/
theorem statusWord_getLsbD (w : Nat) (st : Status) (i : Nat) :
    (statusWord w st).getLsbD i = (decide (i < w) &&
      (decide (i = 0) && st.busy || decide (i = 1) && st.done || decide (2 ≤ i) && st.state.code.testBit (i - 2) ||
        decide (i = 4) && st.err || decide (i = 5) && st.itv || decide (8 ≤ i) && st.ecode.code.testBit (i - 8) ||
        decide (i = 12) && st.ovr || decide (i = 13) && st.buserr)) := by
  have hflag (lo : Nat) (b : Bool) : (decide (lo ≤ i) && b.toNat.testBit (i - lo)) = (decide (i = lo) && b) := by
    rw [Nat.testBit_bool_toNat, ← Bool.and_assoc, ← Bool.decide_and]
    congr 2
    simp only [eq_iff_iff]
    omega
  simp only [statusWord, BitVec.getLsbD_or, fieldAt_getLsbD, hflag, ← Bool.and_or_distrib_left]

theorem statusWord_reserved (w : Nat) (st : Status) {i : Nat} (hi : i = 6 ∨ i = 7 ∨ 14 ≤ i) :
    (statusWord w st).getLsbD i = false := by
  have hs : st.state.code.testBit (i - 2) = false := st.state.code_testBit (by omega)
  have he : 8 ≤ i → st.ecode.code.testBit (i - 8) = false := fun h => st.ecode.code_testBit (by omega)
  have h0 : i ≠ 0 ∧ i ≠ 1 ∧ i ≠ 4 ∧ i ≠ 5 ∧ i ≠ 12 ∧ i ≠ 13 := by omega
  simpa [statusWord_getLsbD, hs, h0] using fun _ => he

theorem idWord_fields {p : Params} (hp : p.Wf) :
    ((idWord p).extractLsb' 0 8).toNat = p.w ∧ ((idWord p).extractLsb' 8 8).toNat = 16 ∧
    ((idWord p).extractLsb' 16 16).toNat = p.rMax ∧ ∀ i, 32 ≤ i → (idWord p).getLsbD i = false := by
  have hle := hp.rMax_le
  have hw := width_cases p
  have hw8 : p.w < 2 ^ 8 := by omega
  have hr : p.rMax < 2 ^ 16 := by omega
  refine ⟨?_, ?_, ?_, fun i hi => ?_⟩
  · simpa [idWord, BitVec.extractLsb'_or, extract_fieldAt_same _ (show 0 + 8 ≤ p.w by omega), extract_fieldAt_above]
      using hw8
  · simp [idWord, BitVec.extractLsb'_or, extract_fieldAt_same _ (show 8 + 8 ≤ p.w by omega), extract_fieldAt_above,
      extract_fieldAt_below hw8]
  · simpa [idWord, BitVec.extractLsb'_or, extract_fieldAt_same _ (show 16 + 16 ≤ p.w by omega),
      extract_fieldAt_below hw8, extract_fieldAt_below (show 16 < 2 ^ 8 by decide)] using hr
  · simp only [idWord, BitVec.getLsbD_or, fieldAt_getLsbD_of_end_le hw8 (show 0 + 8 ≤ i by omega),
      fieldAt_getLsbD_of_end_le (show 16 < 2 ^ 8 by decide) (show 8 + 8 ≤ i by omega),
      fieldAt_getLsbD_of_end_le hr (show 16 + 16 ≤ i by omega), Bool.or_false]

/-- Three 8-bit places from bit 0 up, the first with a field of at most 8 bits: the shape of CFGR and XSHIFT. -/
theorem threeBytes_fields {p : Params} {len : Nat} (v : Nat) (a b : BitVec 8) (hlen : len ≤ 8) (hv : v < 2 ^ len) :
    ((fieldAt p.w 0 v ||| fieldAt p.w 8 a.toNat ||| fieldAt p.w 16 b.toNat).extractLsb' 0 len).toNat = v ∧
    (fieldAt p.w 0 v ||| fieldAt p.w 8 a.toNat ||| fieldAt p.w 16 b.toNat).extractLsb' 8 8 = a ∧
    (fieldAt p.w 0 v ||| fieldAt p.w 8 a.toNat ||| fieldAt p.w 16 b.toNat).extractLsb' 16 8 = b ∧
    ∀ i, (len ≤ i ∧ i < 8) ∨ 24 ≤ i →
      (fieldAt p.w 0 v ||| fieldAt p.w 8 a.toNat ||| fieldAt p.w 16 b.toNat).getLsbD i = false := by
  have hw := width_cases p
  refine ⟨?_, ?_, ?_, fun i hi => ?_⟩
  · simp [BitVec.extractLsb'_or, extract_fieldAt_same _ (show 0 + len ≤ p.w by omega),
      extract_fieldAt_above _ (show 0 + len ≤ 8 by omega), extract_fieldAt_above _ (show 0 + len ≤ 16 by omega),
      Nat.mod_eq_of_lt hv]
  · simp [BitVec.extractLsb'_or, extract_fieldAt_same _ (show 8 + 8 ≤ p.w by omega), extract_fieldAt_above,
      extract_fieldAt_below hv (show 0 + len ≤ 8 by omega)]
  · simp [BitVec.extractLsb'_or, extract_fieldAt_same _ (show 16 + 8 ≤ p.w by omega),
      extract_fieldAt_below hv (show 0 + len ≤ 16 by omega), extract_fieldAt_below a.isLt]
  · simp only [BitVec.getLsbD_or, fieldAt_getLsbD_of_end_le hv (show 0 + len ≤ i by omega), Bool.false_or]
    obtain h | h := hi
    · simp [fieldAt_getLsbD, show ¬ 8 ≤ i by omega, show ¬ 16 ≤ i by omega]
    · simp [fieldAt_getLsbD_of_end_le a.isLt (show 8 + 8 ≤ i by omega),
        fieldAt_getLsbD_of_end_le b.isLt (show 16 + 8 ≤ i by omega)]

/-- XSHIFT under legal parameters with W = 64 (R34). -/
theorem xshiftWord_w64 {p : Params} (hp : p.Wf) (hw : p.width = .w64) : (xshiftWord p).toNat = 0x1F1B1E := by
  obtain ⟨hs1, hs2, hs3⟩ := hp.shifts64 hw
  rw [xshiftWord, hs1, hs2, hs3, show p.w = 64 by simp [Params.w, hw, Width.bits]]
  decide

end Sys2Proof.Machine

open Sys2Proof.Machine

/-- Settles O14. -/
theorem statusWordHoldsItsFields : Obligations.StatusWordHoldsItsFields := by
  unfold Obligations.StatusWordHoldsItsFields
  intro width st
  have hw : 32 ≤ width.bits := by cases width <;> decide
  have hbit (i : Nat) (hi : i < 32) : i < width.bits := by omega
  refine ⟨?_, ?_, statusWord_state width st, ?_, ?_, statusWord_ecode width st, ?_, ?_,
    fun i hi => statusWord_reserved _ st hi⟩ <;>
  · rw [statusWord_getLsbD]
    simp [hbit, ConfigState.code_testBit, ErrCode.code_testBit]

/-- Settles O15: the fields of ID, and no step changes the parameters they come from. -/
theorem idHoldsWidthTableAndRounds : Obligations.IdHoldsWidthTableAndRounds := by
  unfold Obligations.IdHoldsWidthTableAndRounds
  refine ⟨fun p hp => idWord_fields hp, fun s t h => ?_⟩
  obtain ⟨k, level, inputs, rdata, rfl, -⟩ := becomes_of_step h
  rfl

/-- Settles O16. -/
theorem cfgrAndXshiftHoldTheirFields : Obligations.CfgrAndXshiftHoldTheirFields := by
  unfold Obligations.CfgrAndXshiftHoldTheirFields
  refine ⟨fun p k => threeBytes_fields k.variant.code k.kbits k.rshift (by decide) k.variant.code_lt, fun p => ?_,
    fun p hp hw => xshiftWord_w64 hp hw, by decide⟩
  obtain ⟨h1, h2, h3, h⟩ := threeBytes_fields (p := p) p.s1.toNat p.s2 p.s3 le_rfl p.s1.isLt
  exact ⟨BitVec.eq_of_toNat_eq h1, h2, h3, fun i hi => h i (.inr hi)⟩

end

section
/-! The FullWord functions are inverse to each other (R145, R146): six Newton steps invert every odd word, the doubling loop
inverts the self-xor-shift, so one round's inverse is exact on both sides. -/

namespace Sys2Proof.Machine

open Sys2Proof.Config

/-! ### `invOdd` on whole words (R181, R186 (a)) -/

/-- A Newton step squares the error `1 - a * inv`. -/
theorem mul_newtonSteps {w : Nat} (a inv : BitVec w) (n : Nat) :
    a * newtonSteps a n inv = 1 - (1 - a * inv) ^ 2 ^ n := by
  induction n generalizing inv with
  | zero => simp [newtonSteps]
  | succ n ih =>
    have hstep : 1 - a * (inv * (2#w - a * inv)) = (1 - a * inv) ^ 2 := by
      rw [show 2#w = (1 + 1 : BitVec w) from BitVec.ofNat_add 1 1]
      ring
    rw [newtonSteps, ih, hstep, ← pow_mul, pow_succ' 2 n]

/-- An even word to the power of the width or more is 0. -/
theorem pow_eq_zero_of_even {w n : Nat} {e : BitVec w} (he : 2 ∣ e.toNat) (h : w ≤ n) : e ^ n = 0#w := by
  apply BitVec.eq_of_toNat_eq
  rw [BitVec.toNat_pow, BitVec.toNat_ofNat, Nat.zero_mod]
  exact Nat.mod_eq_zero_of_dvd ((pow_dvd_pow 2 h).trans (pow_dvd_pow_of_dvd he n))

theorem even_one_sub_of_odd {w : Nat} {a : BitVec w} (ha : a.getLsbD 0 = true) : 2 ∣ (1 - a).toNat := by
  have hodd : a.toNat % 2 = 1 := by simpa [BitVec.getLsbD, Nat.testBit_zero] using ha
  have hlt := a.isLt
  obtain ⟨w, rfl⟩ : ∃ n, w = n + 1 := Nat.exists_eq_succ_of_ne_zero (by rintro rfl; simp at ha)
  have hpow : 2 ^ (w + 1) = 2 * 2 ^ w := pow_succ' 2 w
  have hone : (1 : BitVec (w + 1)).toNat = 1 := by simp
  rw [BitVec.toNat_sub, hone, Nat.dvd_iff_mod_eq_zero, hpow, Nat.mod_mul_right_mod]
  omega

/-- Six steps invert every odd word of at most 64 bits. -/
theorem mul_newtonSteps_six {w : Nat} {a : BitVec w} (h : w ≤ 64) (ha : a.getLsbD 0 = true) :
    a * newtonSteps a 6 1#w = 1#w := by
  have hpow : (1 - a) ^ 2 ^ 6 = 0#w := pow_eq_zero_of_even (even_one_sub_of_odd ha) h
  rw [mul_newtonSteps, show a * 1#w = a from mul_one a, hpow]
  exact sub_zero _

theorem mul_invOdd_ones {w : Nat} {a : BitVec w} (h : w ≤ 64) (ha : a.getLsbD 0 = true) :
    a * invOdd a (ones w) = 1#w := by
  rw [invOdd, ones, BitVec.and_allOnes, mul_newtonSteps_six h ha]

theorem w_le_64 (p : Params) : p.w ≤ 64 := by
  have := width_cases p
  omega

theorem mul_cancel_invOdd {w : Nat} {a : BitVec w} (h : w ≤ 64) (ha : a.getLsbD 0 = true) (x : BitVec w) :
    x * a * invOdd a (ones w) = x ∧ x * invOdd a (ones w) * a = x := by
  have hone := mul_invOdd_ones h ha
  constructor
  · rw [BitVec.mul_assoc, hone, BitVec.mul_one]
  · rw [BitVec.mul_assoc, BitVec.mul_comm (invOdd a (ones w)), hone, BitVec.mul_one]

/-! ### `invXorShift` (R182, R186 (b)) -/

/-- The self-xor-shift `v ^ (v >> t)`. -/
def xorShift {w : Nat} (t : Nat) (v : BitVec w) : BitVec w := v ^^^ (v >>> t)

/-- Applying the same shift twice doubles it: the loop of R182 rests on this. -/
theorem xorShift_xorShift {w : Nat} (t : Nat) (v : BitVec w) : xorShift t (xorShift t v) = xorShift (2 * t) v := by
  rw [xorShift, xorShift, BitVec.ushiftRight_xor_distrib, ← BitVec.shiftRight_add, xorShift, Nat.two_mul, BitVec.xor_assoc,
    xor_cancel_left]

theorem xorShift_comm {w : Nat} (s t : Nat) (v : BitVec w) : xorShift s (xorShift t v) = xorShift t (xorShift s v) := by
  simp only [xorShift, BitVec.ushiftRight_xor_distrib, ← BitVec.shiftRight_add, Nat.add_comm s t]
  ac_rfl

/-- The loop commutes with a self-xor-shift, since each turn is one. -/
theorem xorShiftLoop_xorShift {w k : Nat} (s fuel t : Nat) (v : BitVec w) (n : Nat) :
    (xorShiftLoop k fuel t (xorShift s v) n).1 = xorShift s (xorShiftLoop k fuel t v n).1 := by
  induction fuel generalizing t v n with
  | zero => rfl
  | succ fuel ih =>
    simp only [xorShiftLoop]
    split
    · exact (congrArg (fun u => (xorShiftLoop k fuel (2 * t) u (n + 1)).1) (xorShift_comm t s v)).trans (ih _ _ _)
    · rfl

/-- The loop undoes the self-xor-shift of a k-bit word. -/
theorem xorShiftLoop_inverts {w k : Nat} (fuel t : Nat) (v : BitVec w) (n : Nat) (hv : v.toNat < 2 ^ k)
    (h : k ≤ t * 2 ^ fuel) : (xorShiftLoop k fuel t (xorShift t v) n).1 = v := by
  have hdone (t : Nat) (ht : k ≤ t) : xorShift t v = v := by
    have hz : v >>> t = 0#w := by
      apply BitVec.eq_of_toNat_eq
      rw [BitVec.toNat_ushiftRight, Nat.shiftRight_eq_div_pow, BitVec.toNat_ofNat, Nat.zero_mod]
      exact Nat.div_eq_of_lt (lt_of_lt_of_le hv (Nat.pow_le_pow_right (by omega) ht))
    rw [xorShift, hz, BitVec.xor_zero]
  induction fuel generalizing t n with
  | zero => exact hdone t (by simpa using h)
  | succ fuel ih =>
    simp only [xorShiftLoop]
    split
    · have hturn : xorShift t v ^^^ (xorShift t v >>> t) = xorShift (2 * t) v := xorShift_xorShift t v
      rw [hturn]
      exact ih _ _ (by rw [pow_succ] at h; linarith)
    · exact hdone t (by omega)

/-- On whole words the mask is no restriction, and the loop is the inverse on both sides. -/
theorem invXorShift_full {w s : Nat} (hs : 1 ≤ s) (v : BitVec w) :
    invXorShift (v ^^^ (v >>> s)) s w = v ∧ invXorShift v s w ^^^ (invXorShift v s w >>> s) = v := by
  have hmask : maskOf w w = BitVec.allOnes w := by simp [maskOf]
  have hfuel : w ≤ s * 2 ^ w := le_trans Nat.lt_two_pow_self.le (Nat.le_mul_of_pos_left _ hs)
  have hinv : (xorShiftLoop w w s (xorShift s v) 0).1 = v := xorShiftLoop_inverts w s v 0 v.isLt hfuel
  simp only [invXorShift, hmask, BitVec.and_allOnes]
  exact ⟨hinv, (xorShiftLoop_xorShift s w s v 0).symm.trans hinv⟩

/-! ### FullWord (R145, R146) -/

theorem shifts_pos {p : Params} (hp : p.Wf) : 1 ≤ p.s1.toNat ∧ 1 ≤ p.s2.toNat ∧ 1 ≤ p.s3.toNat := by
  cases hw : p.width with
  | w32 =>
    obtain ⟨⟨h1, -⟩, ⟨h2, -⟩, ⟨h3, -⟩⟩ := hp.shifts32 hw
    exact ⟨h1, h2, h3⟩
  | w64 =>
    obtain ⟨h1, h2, h3⟩ := hp.shifts64 hw
    rw [h1, h2, h3]
    decide

section
variable {p : Params} {k : Kpe p} (hp : p.Wf) (hm : k.MultipliersInv)
include hp hm

theorem fwInvRound_fwRound (x : p.Word) (r : Nat) : fwInvRound k (fwRound k x r) r = x := by
  obtain ⟨h1, h2, h3⟩ := shifts_pos hp
  simp only [fwInvRound, fwRound, xor_cancel_right, (invXorShift_full h1 _).1, (invXorShift_full h2 _).1,
    (invXorShift_full h3 _).1, hm.c1invEq, hm.c2invEq, (mul_cancel_invOdd (w_le_64 p) hm.c1Odd _).1,
    (mul_cancel_invOdd (w_le_64 p) hm.c2Odd _).1]

theorem fwRound_fwInvRound (y : p.Word) (r : Nat) : fwRound k (fwInvRound k y r) r = y := by
  obtain ⟨h1, h2, h3⟩ := shifts_pos hp
  simp only [fwInvRound, fwRound, xor_cancel_right, (invXorShift_full h1 _).2, (invXorShift_full h2 _).2,
    (invXorShift_full h3 _).2, hm.c1invEq, hm.c2invEq, (mul_cancel_invOdd (w_le_64 p) hm.c1Odd _).2,
    (mul_cancel_invOdd (w_le_64 p) hm.c2Odd _).2]

theorem fwInvRounds_fwRounds (n : Nat) (x : p.Word) : fwInvRounds k n (fwRounds k n x) = x := by
  induction n with
  | zero => rfl
  | succ n ih => rw [fwRounds, fwInvRounds, fwInvRound_fwRound hp hm, ih]

theorem fwRounds_fwInvRounds (n : Nat) (y : p.Word) : fwRounds k n (fwInvRounds k n y) = y := by
  induction n generalizing y with
  | zero => rfl
  | succ n ih => rw [fwInvRounds, fwRounds, ih, fwRound_fwInvRound hp hm]

end

end Sys2Proof.Machine

open Sys2Proof.Machine

/-- Settles O52: the rounds cancel from the innermost out. -/
theorem fullWordDecodeInvertsEncode : Obligations.FullWordDecodeInvertsEncode := by
  unfold Obligations.FullWordDecodeInvertsEncode
  exact fun p k x hp hm => ⟨fwInvRounds_fwRounds hp hm _ x, fwRounds_fwInvRounds hp hm _ x⟩

end

section
/-! Accesses that set BUSERR and do nothing else (R61 to R63): those no register answers, and writes of read-only registers. -/

namespace Sys2Proof.Machine

open Sys2Proof.Config

theorem step_read_illegal {s : State} {rest : List (Event s.params.w)} {addr bytes : Nat} (hr : s.rst = false)
    (ht : busTarget s.params addr bytes = .illegal) (hin : s.inputs = .read addr bytes :: rest) :
    step s = .next { s.withBusError with inputs := rest, rdata := 0 } := by
  rw [step_cons hin]
  simp [handle, busRead, ht, hr, Kpe.busError, State.withBusError]

theorem step_write_illegal {s : State} {rest : List (Event s.params.w)} {addr bytes : Nat} (v : s.params.Word)
    (hr : s.rst = false) (ht : busTarget s.params addr bytes = .illegal) (hin : s.inputs = .write addr bytes v :: rest) :
    step s = .next { s.withBusError with inputs := rest } := by
  rw [step_cons hin]
  simp [handle, busWrite, ht, hr, Kpe.busError, State.withBusError]

/-- A misaligned byte address is at a misaligned offset too, since KPE_BASE is aligned (R8, R60). -/
theorem offset_misaligned {p : Params} (hp : p.Wf) {addr : Nat} (hle : p.base ≤ addr) (h : addr % p.wordBytes ≠ 0) :
    (addr - p.base) % p.wordBytes ≠ 0 := by
  have hbase : p.wordBytes ∣ p.base := Nat.dvd_of_mod_eq_zero hp.base_aligned
  intro hoff
  exact h (Nat.mod_eq_zero_of_dvd ((Nat.dvd_sub_iff_left hle hbase).mp (Nat.dvd_of_mod_eq_zero hoff)))

theorem busTarget_unmapped (p : Params) {n : Nat} (h : 0x16 ≤ n) (hn : n ≤ 0xFF) :
    busTarget p (p.base + n * p.wordBytes) p.wordBytes = .illegal := by
  rw [busTarget_index p (Nat.lt_succ_of_le hn), ofIndex_none h]

theorem Reg.exists_index_eq {n : Nat} (h : n ≤ 0x15) : ∃ r : Reg, r.index = n := by
  have hmap : allRegs.map Reg.index = List.range 0x16 := by decide
  have hmem : n ∈ allRegs.map Reg.index := by
    rw [hmap]
    exact List.mem_range.mpr (Nat.lt_succ_of_le h)
  obtain ⟨r, -, hidx⟩ := List.mem_map.mp hmem
  exact ⟨r, hidx⟩

/-- The read-only registers, by their indices, take BUSERR also while BUSY (R63). -/
theorem writeReg_readOnly {p : Params} (k : Kpe p) {r : Reg} (v : p.Word) (h : r.index = 0x00 ∨ 0x06 ≤ r.index) :
    writeReg k r v = k.busError := by
  cases r with
  | status | cmd | arg0 | arg1 | arg2 => simp [Reg.index] at h
  | _ => rfl

end Sys2Proof.Machine

open Sys2Proof.Machine

/-- Settles O6. -/
theorem partialOrMisalignedAccessOnlySetsBuserr : Obligations.PartialOrMisalignedAccessOnlySetsBuserr := by
  unfold Obligations.PartialOrMisalignedAccessOnlySetsBuserr
  intro s rest addr bytes hp hr hle hlt hbad
  have ht : busTarget s.params addr bytes = .illegal :=
    busTarget_illegal s.params hle hlt (hbad.imp_right (offset_misaligned hp hle))
  exact ⟨step_read_illegal hr ht, fun v => step_write_illegal v hr ht⟩

/-- Settles O7. -/
theorem unmappedIndexOnlySetsBuserr : Obligations.UnmappedIndexOnlySetsBuserr := by
  unfold Obligations.UnmappedIndexOnlySetsBuserr
  intro s rest idx hr hlo hhi
  have ht := busTarget_unmapped s.params hlo hhi
  exact ⟨step_read_illegal hr ht, fun v => step_write_illegal v hr ht⟩

/-- Settles O8: the indices named are those of the read-only registers. -/
theorem readOnlyRegisterWriteOnlySetsBuserr : Obligations.ReadOnlyRegisterWriteOnlySetsBuserr := by
  unfold Obligations.ReadOnlyRegisterWriteOnlySetsBuserr
  intro s rest idx v hr hidx hin
  obtain ⟨r, rfl⟩ := Reg.exists_index_eq (show idx ≤ 0x15 by omega)
  rw [step_writeReg r v hr hin, writeReg_readOnly s.kpe v (hidx.imp_right And.left)]
  rfl

end

section
/-! The command word and back: `decode` gives a command exactly when the word's fields are the command's (R80, R83, R88),
and a word with given fields is unique, so decoding and encoding are inverse to each other. -/

namespace Sys2Proof

/-! ### The fields of a command -/

/-- The fields of a command's word (R80, R83), as the decoder reads them. -/
def Instr.fields (i : Instr) : Fields where
  op := i.opcode.toNat
  chk := i.checked == 1
  sel := i.selector.toNat
  reserved := 0
  idx := i.idx
  upper := 0

theorem Instr.wellFormed_iff (i : Instr) : i.wellFormed = true ↔ i.idx < 65536 := by simp [wellFormed]

theorem fieldsOf_upper_eq_zero_iff {w : Nat} (v : BitVec w) : (fieldsOf v).upper = 0 ↔ v >>> 32 = 0 := by
  simp [fieldsOf, ← BitVec.toNat_inj]

theorem fieldsOf_idx_lt {w : Nat} (v : BitVec w) : (fieldsOf v).idx < 65536 := (v.extractLsb' 16 16).isLt

theorem encodeWord_ushiftRight (w : Nat) (i : Instr) : encodeWord w i >>> 32 = 0 := by
  apply BitVec.eq_of_toNat_eq
  have hlt : (encodeWord w i).toNat < 2 ^ 32 := by
    rw [encodeWord, BitVec.toNat_setWidth]
    exact lt_of_le_of_lt (Nat.mod_le _ _) (encode i).isLt
  rw [BitVec.toNat_ushiftRight, Nat.shiftRight_eq_div_pow, Nat.div_eq_of_lt hlt]
  rfl

/-- The encoder writes the command's fields, at every width that holds the word. -/
theorem fieldsOf_encodeWord {w : Nat} (hw : 32 ≤ w) {i : Instr} (hi : i.wellFormed = true) :
    fieldsOf (encodeWord w i) = i.fields := by
  obtain ⟨hop, hchk, hsel, hres, hidx⟩ := Laws.EncodedFields.every i
  have hbits (start len : Nat) (h : start + len ≤ 32) :
      (encodeWord w i).extractLsb' start len = (encode i).extractLsb' start len :=
    BitVec.extractLsb'_setWidth_of_le (h.trans hw)
  have hflag : (encodeWord w i).getLsbD 8 = (i.checked == 1) := by
    have hbit : ∀ x : BitVec 1, (x == 1) = x.getLsbD 0 := by decide
    rw [hbit, ← hchk, ← hbits 8 1 (by omega), BitVec.getLsbD_extractLsb']
    rfl
  have hupper := (fieldsOf_upper_eq_zero_iff _).mpr (encodeWord_ushiftRight w i)
  have hlt := i.wellFormed_iff.mp hi
  simp only [fieldsOf] at hupper
  simp [fieldsOf, Instr.fields, hbits, hop, hflag, hsel, hres, hidx, hupper, Nat.mod_eq_of_lt hlt]

/-- The fields cover the word. -/
theorem eq_of_fieldsOf_eq {w : Nat} {u v : BitVec w} (h : fieldsOf u = fieldsOf v) : u = v := by
  obtain ⟨hop, hchk, hsel, hres, hidx, hupper⟩ := Fields.mk.inj h
  have hbits {start len j : Nat} (he : (u.extractLsb' start len).toNat = (v.extractLsb' start len).toNat)
      (hlo : start ≤ j) (hhi : j < start + len) : u.getLsbD j = v.getLsbD j := by
    have hj := congrArg (fun x => x.getLsbD (j - start)) (BitVec.eq_of_toNat_eq he)
    simpa [BitVec.getLsbD_extractLsb', show j - start < len by omega, Nat.add_sub_cancel' hlo] using hj
  have habove {j : Nat} (hlo : 32 ≤ j) : u.getLsbD j = v.getLsbD j := by
    have hj := congrArg (fun x => x.getLsbD (j - 32)) (BitVec.eq_of_toNat_eq hupper)
    simpa [BitVec.getLsbD_ushiftRight, Nat.add_sub_cancel' hlo] using hj
  apply BitVec.eq_of_getLsbD_eq
  intro j _
  by_cases h8 : j < 8
  · exact hbits hop (Nat.zero_le j) (by omega)
  by_cases h9 : j < 9
  · rwa [show j = 8 by omega]
  by_cases h11 : j < 11
  · exact hbits hsel (by omega) (by omega)
  by_cases h16 : j < 16
  · exact hbits hres (by omega) (by omega)
  by_cases h32 : j < 32
  · exact hbits hidx (by omega) (by omega)
  · exact habove (by omega)

/-! ### What each form of R83 accepts -/

variable {f : Fields} {i j first second : Instr}

theorem decodePlain_eq_ok : decodePlain f i = .ok j ↔ f.chk = false ∧ f.sel = 0 ∧ f.idx = 0 ∧ i = j := by
  simp only [decodePlain]
  split <;> simp_all

theorem decodeMulwr_eq_ok :
    decodeMulwr f = .ok j ↔ f.chk = false ∧ f.idx = 0 ∧
      (f.sel = 0 ∧ .mulwrC = j ∨ f.sel = 1 ∧ .mulwrC1 = j ∨ f.sel = 2 ∧ .mulwrC2 = j) := by
  simp only [decodeMulwr]
  split
  · split <;> simp_all
  · simp_all

theorem decodeIndexed_eq_ok :
    decodeIndexed f first second = .ok j ↔ f.chk = false ∧ (f.sel = 0 ∧ first = j ∨ f.sel = 1 ∧ second = j) := by
  simp only [decodeIndexed]
  split
  · split <;> simp_all
  · simp_all

theorem decodeTblwr_eq_ok : decodeTblwr f = .ok j ↔ f.chk = false ∧ f.sel = 0 ∧ .tblwr f.idx = j := by
  simp only [decodeTblwr]
  split
  · split <;> simp_all
  · simp_all

theorem decodeChecked_eq_ok :
    decodeChecked f first second = .ok j ↔ f.sel = 0 ∧ f.idx = 0 ∧ (if f.chk then second else first) = j := by
  simp only [decodeChecked]
  split <;> simp_all

/-! ### Decoding -/

/-- The choice by OP gives a command only from the command's own fields. -/
theorem fields_of_decodeOp (hres : f.reserved = 0) (hup : f.upper = 0) (h : decodeOp f = .ok i) : f = i.fields := by
  obtain ⟨op, chk, sel, reserved, idx, upper⟩ := f
  obtain rfl : reserved = 0 := hres
  obtain rfl : upper = 0 := hup
  simp only [decodeOp] at h
  split at h
  case h_1 | h_2 | h_8 | h_11 | h_12 | h_13 | h_14 | h_15 | h_16 =>
    obtain ⟨rfl, rfl, rfl, rfl⟩ := decodePlain_eq_ok.mp h
    rfl
  case h_3 => obtain ⟨rfl, rfl, ⟨rfl, rfl⟩ | ⟨rfl, rfl⟩ | ⟨rfl, rfl⟩⟩ := decodeMulwr_eq_ok.mp h <;> rfl
  case h_4 | h_5 | h_7 => obtain ⟨rfl, ⟨rfl, rfl⟩ | ⟨rfl, rfl⟩⟩ := decodeIndexed_eq_ok.mp h <;> rfl
  case h_6 =>
    obtain ⟨rfl, rfl, rfl⟩ := decodeTblwr_eq_ok.mp h
    rfl
  case h_9 | h_10 =>
    obtain ⟨rfl, rfl, rfl⟩ := decodeChecked_eq_ok.mp h
    cases chk <;> rfl
  case h_17 => cases h

theorem decodeOp_fields (i : Instr) : decodeOp i.fields = .ok i := by
  cases i <;> rfl

/-- R88: a word decodes to a command exactly when its fields are the command's. -/
theorem decode_eq_ok_iff {w : Nat} {v : BitVec w} : decode v = .ok i ↔ fieldsOf v = i.fields := by
  constructor
  · intro h
    simp only [decode] at h
    split at h
    · cases h
    · split at h
      · cases h
      · exact fields_of_decodeOp (not_not.mp ‹_›) (not_not.mp ‹_›) h
  · intro h
    simp [decode, h, decodeOp_fields, show i.fields.upper = 0 from rfl, show i.fields.reserved = 0 from rfl]

theorem decode_encodeWord {w : Nat} (hw : 32 ≤ w) (hi : i.wellFormed = true) : decode (encodeWord w i) = .ok i :=
  decode_eq_ok_iff.mpr (fieldsOf_encodeWord hw hi)

theorem wellFormed_of_decode {w : Nat} {v : BitVec w} (h : decode v = .ok i) : i.wellFormed = true := by
  have hidx : (fieldsOf v).idx = i.idx := congrArg Fields.idx (decode_eq_ok_iff.mp h)
  exact i.wellFormed_iff.mpr (hidx ▸ fieldsOf_idx_lt v)

theorem encodeWord_of_decode {w : Nat} (hw : 32 ≤ w) {v : BitVec w} (h : decode v = .ok i) : encodeWord w i = v :=
  eq_of_fieldsOf_eq ((fieldsOf_encodeWord hw (wellFormed_of_decode h)).trans (decode_eq_ok_iff.mp h).symm)

theorem Width.le_bits (width : Width) : 32 ≤ width.bits := by cases width <;> decide

end Sys2Proof

open Sys2Proof

/-- Settles O1: the encoder writes the command's fields, and `decode` answers them with the command. -/
theorem decodingAnEncodedCommandGivesIt : Obligations.DecodingAnEncodedCommandGivesIt := by
  unfold Obligations.DecodingAnEncodedCommandGivesIt
  exact fun width i hi => decode_encodeWord width.le_bits hi

/-- Settles O2: the word and the command's word have the same fields. -/
theorem encodingADecodedWordGivesIt : Obligations.EncodingADecodedWordGivesIt := by
  unfold Obligations.EncodingADecodedWordGivesIt
  exact fun width v i h => ⟨wellFormed_of_decode h, encodeWord_of_decode width.le_bits h⟩

/-- Settles O5: ten closed words. -/
theorem wordsOfTheSpecDecode : Obligations.WordsOfTheSpecDecode := by
  unfold Obligations.WordsOfTheSpecDecode
  decide

end

section
/-! The rows of spec/opcode_table.json (R87): each is the word of its command under its mask, so the rows a word matches are
those of the command it decodes to. -/

namespace Sys2Proof

/-! ### The decoder reads the low 32 bits and needs 0 above them -/

theorem fieldsOf_setWidth {w : Nat} (v : BitVec w) :
    fieldsOf (v.setWidth 32) = { fieldsOf v with upper := 0 } := by
  have hbits (start len : Nat) (h : start + len ≤ 32) :
      (v.setWidth 32).extractLsb' start len = v.extractLsb' start len := BitVec.extractLsb'_setWidth_of_le h
  have hupper : ((v.setWidth 32) >>> 32).toNat = 0 := by
    rw [BitVec.ushiftRight_eq_zero le_rfl]
    rfl
  simp [fieldsOf, hbits, hupper, -BitVec.extractLsb'_toNat]

theorem decode_eq_ok_iff_setWidth {w : Nat} {v : BitVec w} {i : Instr} :
    decode v = .ok i ↔ decode (v.setWidth 32) = .ok i ∧ v >>> 32 = 0 := by
  rw [decode_eq_ok_iff, decode_eq_ok_iff, fieldsOf_setWidth, ← fieldsOf_upper_eq_zero_iff]
  constructor
  · intro h
    rw [h]
    exact ⟨rfl, rfl⟩
  · rintro ⟨h, hupper⟩
    rwa [← hupper] at h

/-! ### The table -/

/-- The commands without an index, in the table's order. -/
def plainCommands : List Instr :=
  [.nop, .cfg, .mulwrC, .mulwrC1, .mulwrC2, .arm, .encU, .encC, .decU, .decC, .itstart, .itnext, .block, .invodd, .invxs,
   .srst]

/-- The commands with an index, in the table's order. -/
def indexedCommands : List (Nat → Instr) := [.keywrK1, .keywrK2, .keyrdK1, .keyrdK2, .tblwr, .tblrdFwd, .tblrdInv]

theorem plainRows_eq : plainRows = plainCommands.map fun i => ⟨i.mnemonic, encode i, BitVec.allOnes 32⟩ := by decide

theorem indexedRows_eq : indexedRows = indexedCommands.map fun c => ⟨(c 0).mnemonic, encode (c 0), 0x0000FFFF⟩ := by
  decide

theorem plain_or_indexed (i : Instr) : i ∈ plainCommands ∨ ∃ c ∈ indexedCommands, c i.idx = i := by
  cases i <;> simp [plainCommands, indexedCommands, Instr.idx]

variable {c : Nat → Instr} {i : Instr} {r : OpcodeRow} {v : BitVec 32}

theorem indexedCommands_fields (hc : c ∈ indexedCommands) (n : Nat) :
    (c n).fields = { (c 0).fields with idx := n } ∧ (c n).mnemonic = (c 0).mnemonic := by
  simp only [indexedCommands, List.mem_cons, List.not_mem_nil, or_false] at hc
  obtain rfl | rfl | rfl | rfl | rfl | rfl | rfl := hc <;> exact ⟨rfl, rfl⟩

/-- The mask of the rows that leave IDX open clears IDX alone. -/
theorem fieldsOf_lowHalf (v : BitVec 32) : fieldsOf (v &&& 0x0000FFFF) = { fieldsOf v with idx := 0 } := by
  have hmask : (0x0000FFFF : BitVec 32) = Machine.maskOf 32 16 := by decide
  have hbit (j : Nat) : (v &&& Machine.maskOf 32 16).getLsbD j = (v.getLsbD j && decide (j < 16)) := by
    rw [BitVec.getLsbD_and, Machine.maskOf_getLsbD (by omega)]
  have hbelow (start len : Nat) (h : start + len ≤ 16) :
      (v &&& Machine.maskOf 32 16).extractLsb' start len = v.extractLsb' start len := by
    apply BitVec.eq_of_getLsbD_eq
    intro j hj
    simp only [BitVec.getLsbD_extractLsb', hbit, show start + j < 16 by omega, decide_true, Bool.and_true]
  have hidx : (v &&& Machine.maskOf 32 16).extractLsb' 16 16 = 0 := by
    apply BitVec.eq_of_getLsbD_eq
    intro j _
    simp only [BitVec.getLsbD_extractLsb', hbit, show ¬ 16 + j < 16 by omega, decide_false, Bool.and_false]
    exact BitVec.getLsbD_zero.symm
  have hupper (u : BitVec 32) : u >>> 32 = 0 := BitVec.ushiftRight_eq_zero le_rfl
  simp (disch := decide) only [hmask, fieldsOf, hbelow, hidx, hupper, hbit, decide_eq_true, Bool.and_true]
  rfl

theorem fieldsOf_encode (hi : i.wellFormed = true) : fieldsOf (encode i) = i.fields := by
  simpa [encodeWord] using fieldsOf_encodeWord le_rfl hi

theorem decode_eq_ok_iff_encode (hi : i.wellFormed = true) : decode v = .ok i ↔ v = encode i := by
  rw [decode_eq_ok_iff, ← fieldsOf_encode hi]
  exact ⟨eq_of_fieldsOf_eq, congrArg fieldsOf⟩

/-- A row that leaves IDX open matches a word exactly when the word decodes to its command with the word's index. -/
theorem lowHalf_eq_encode_iff (hc : c ∈ indexedCommands) :
    v &&& 0x0000FFFF = encode (c 0) ↔ decode v = .ok (c (fieldsOf v).idx) := by
  obtain ⟨hfields, -⟩ := indexedCommands_fields hc (fieldsOf v).idx
  obtain ⟨hzero, -⟩ := indexedCommands_fields hc 0
  have hwf : ∀ d ∈ indexedCommands, (d 0).wellFormed = true := by decide
  rw [← decode_eq_ok_iff_encode (hwf c hc), decode_eq_ok_iff, decode_eq_ok_iff, fieldsOf_lowHalf, hfields]
  constructor
  · intro h
    rw [← h]
  · intro h
    exact (congrArg (fun f : Fields => { f with idx := 0 }) h).trans hzero.symm

theorem exists_decode_of_matchesWord (hr : r ∈ opcodeTable) (h : r.matchesWord v = true) :
    ∃ i, decode v = .ok i ∧ i.mnemonic = r.mnemonic := by
  have hmatch : v &&& r.mask = r.pattern := eq_of_beq h
  rw [opcodeTable, plainRows_eq, indexedRows_eq, List.mem_append, List.mem_map, List.mem_map] at hr
  obtain ⟨i, hi, rfl⟩ | ⟨c, hc, rfl⟩ := hr
  · have hwf : ∀ j ∈ plainCommands, j.wellFormed = true := by decide
    exact ⟨i, (decode_eq_ok_iff_encode (hwf i hi)).mpr (BitVec.and_allOnes.symm.trans hmatch), rfl⟩
  · exact ⟨_, (lowHalf_eq_encode_iff hc).mp hmatch, (indexedCommands_fields hc _).2⟩

theorem exists_row_of_decode (h : decode v = .ok i) :
    ∃ r ∈ opcodeTable, r.matchesWord v = true ∧ r.mnemonic = i.mnemonic := by
  rw [opcodeTable, plainRows_eq, indexedRows_eq]
  obtain hi | ⟨c, hc, hi⟩ := plain_or_indexed i
  · have hv := (decode_eq_ok_iff_encode (wellFormed_of_decode h)).mp h
    refine ⟨_, List.mem_append_left _ (List.mem_map_of_mem hi), ?_, rfl⟩
    exact beq_iff_eq.mpr (BitVec.and_allOnes.trans hv)
  · refine ⟨_, List.mem_append_right _ (List.mem_map_of_mem hc), ?_, ?_⟩
    · have hidx : (fieldsOf v).idx = i.idx := congrArg Fields.idx (decode_eq_ok_iff.mp h)
      exact beq_iff_eq.mpr ((lowHalf_eq_encode_iff hc).mpr (by rw [hidx, hi, h]))
    · rw [← hi]
      exact (indexedCommands_fields hc _).2.symm

/-- The rows a word matches are its command's row: the mnemonics of the table are distinct. -/
theorem matchingRows_of_decode (h : decode v = .ok i) : (matchingRows v).map OpcodeRow.mnemonic = [i.mnemonic] := by
  have hnodup : (opcodeTable.map OpcodeRow.mnemonic).Nodup := by decide
  have hsub : ((matchingRows v).map OpcodeRow.mnemonic).Nodup := hnodup.sublist (List.filter_sublist.map _)
  rw [← List.perm_singleton, List.perm_ext_iff_of_nodup hsub (List.nodup_singleton _)]
  intro m
  simp only [matchingRows, List.mem_map, List.mem_filter, List.mem_singleton]
  constructor
  · rintro ⟨r, ⟨hr, hmatch⟩, rfl⟩
    obtain ⟨j, hj, hm⟩ := exists_decode_of_matchesWord hr hmatch
    rw [h] at hj
    cases hj
    exact hm.symm
  · rintro rfl
    obtain ⟨r, hr, hmatch, hm⟩ := exists_row_of_decode h
    exact ⟨r, ⟨hr, hmatch⟩, hm⟩

/-- R87 on 32-bit words. -/
theorem exists_decode_iff_matchingRows : (∃ i, decode v = .ok i) ↔ (matchingRows v).length = 1 := by
  constructor
  · rintro ⟨i, h⟩
    rw [← List.length_map (f := OpcodeRow.mnemonic), matchingRows_of_decode h]
    rfl
  · intro h
    obtain ⟨r, hrow⟩ := List.length_eq_one_iff.mp h
    obtain ⟨hr, hmatch⟩ := List.mem_filter.mp (show r ∈ matchingRows v by simp [hrow])
    obtain ⟨i, hi, -⟩ := exists_decode_of_matchesWord hr hmatch
    exact ⟨i, hi⟩

end Sys2Proof

namespace Sys2Proof.Machine

/-- An illegal word in flight completes with the error CMD (R87, R203). -/
theorem engineMove_illegal {s : State} (hr : s.rst = false) (hb : s.kpe.status.busy = true)
    (hd : ¬ ∃ i, decode s.kpe.cmd = .ok i) : engineMove s = .next (s.completedWith .cmd) := by
  obtain ⟨hidle, -⟩ | ⟨-, -, ⟨i, hi, -⟩ | ⟨_, -, he⟩⟩ := engineMove_cases s
  · simp [hr, hb] at hidle
  · exact absurd ⟨i, hi⟩ hd
  · exact he

end Sys2Proof.Machine

open Sys2Proof Sys2Proof.Machine

/-- Settles O3: the rows a word matches are those of its low 32 bits' command; an illegal word is the engine's error CMD. -/
theorem legalWordsMatchExactlyOneRow : Obligations.LegalWordsMatchExactlyOneRow := by
  unfold Obligations.LegalWordsMatchExactlyOneRow
  refine ⟨fun _ v => ⟨?_, fun i h => ?_⟩, fun s hr hin hb hd => ?_⟩
  · rw [← exists_decode_iff_matchingRows, ← exists_and_right]
    exact exists_congr fun i => decode_eq_ok_iff_setWidth
  · exact matchingRows_of_decode (decode_eq_ok_iff_setWidth.mp h).1
  · rw [step_nil hin, engineMove_illegal hr hb hd]

end

section
/-! Host lines as runs of the machine (R90): WAIT, EXEC and ENCODE on an idle KPE. -/

namespace Sys2Proof.Machine

open Sys2Proof.Config

variable {s t : State} {rest : List (Event s.params.w)}

theorem run_succ_of_step (n : Nat) (h : step s = .next t) : core.run (n + 1) s = core.run n t := by
  simp [Host.Core.run, core, h]

theorem encodeWord_encC (w : Nat) : encodeWord w .encC = 0x110#w := by
  apply BitVec.eq_of_toNat_eq
  rw [encodeWord, BitVec.toNat_setWidth, BitVec.toNat_ofNat]
  rfl

/-- Bit 0 of STATUS, which WAIT tests (R90). -/
theorem statusWord_busy (p : Params) (st : Status) : (statusWord p.w st).getLsbD 0 = st.busy := by
  have hw := width_cases p
  rw [statusWord_getLsbD, decide_eq_true (show 0 < p.w by omega)]
  simp

theorem busRead_register (r : Reg) (hr : s.rst = false) :
    busRead s (r.address s.params) s.params.wordBytes = { s with rdata := readReg s.kpe r } := by
  simp [busRead, busTarget_address, hr]

/-- WAIT's read while a command is in flight: the engine moves and the read is repeated (log 11). -/
theorem step_poll_busy (hr : s.rst = false) (hb : s.kpe.status.busy = true) (hin : s.inputs = .poll :: rest) :
    step s = .next { s with inputs := .engine :: .poll :: rest, rdata := statusWord s.params.w s.kpe.status } := by
  rw [step_cons hin, handle, pollStatus, busRead_register (s := { s with inputs := rest }) .status hr]
  exact congrArg _ (if_pos ((statusWord_busy _ _).trans hb))

/-- WAIT's read with no command in flight ends it. -/
theorem step_poll_idle (hr : s.rst = false) (hb : s.kpe.status.busy = false) (hin : s.inputs = .poll :: rest) :
    step s = .next { s with inputs := rest, rdata := statusWord s.params.w s.kpe.status } := by
  rw [step_cons hin, handle, pollStatus, busRead_register (s := { s with inputs := rest }) .status hr]
  exact congrArg _ (if_neg (ne_true_of_eq_false ((statusWord_busy _ _).trans hb)))

theorem step_engine_decoded {i : Instr} (hr : s.rst = false) (hb : s.kpe.status.busy = true)
    (hd : decode s.kpe.cmd = .ok i) (hin : s.inputs = .engine :: rest) (h : exec i { s with inputs := rest } = .next t) :
    step s = .next t :=
  ((stepRunsTheDecodedCommand s i hr hb hd).2 rest hin).trans h

/-- EXEC of a command on an idle KPE (R90): the write of CMD, the busy poll, the engine's completion, the idle poll. -/
theorem run_execEvents {i : Instr} {k : Kpe s.params} (n : Nat) (hi : i.wellFormed = true) (hr : s.rst = false)
    (hb : s.kpe.status.busy = false) (hin : s.inputs = execEvents s.params i ++ rest)
    (hexec : exec i { s with
        inputs := .poll :: rest
        kpe := s.kpe.issue (encodeWord s.params.w i)
        rdata := statusWord s.params.w s.kpe.status.issued } =
      .next { s with inputs := .poll :: rest, kpe := k, rdata := statusWord s.params.w s.kpe.status.issued }) :
    core.run (n + 4) s =
      core.run n ({ s with inputs := rest, kpe := k, rdata := statusWord s.params.w k.status } : State) := by
  have hdec := decode_encodeWord s.params.width.le_bits hi
  have hwrite := step_writeReg .cmd (encodeWord s.params.w i) hr hin
  rw [writeReg_cmd_idle _ hb] at hwrite
  calc core.run (n + 4) s
    _ = core.run (n + 3)
          ({ s with inputs := .poll :: rest, kpe := s.kpe.issue (encodeWord s.params.w i) } : State) :=
        run_succ_of_step _ hwrite
    _ = core.run (n + 2)
          ({ s with
            inputs := .engine :: .poll :: rest
            kpe := s.kpe.issue (encodeWord s.params.w i)
            rdata := statusWord s.params.w s.kpe.status.issued } : State) :=
        run_succ_of_step _ (step_poll_busy hr rfl rfl)
    _ = core.run (n + 1)
          ({ s with
            inputs := .poll :: rest, kpe := k, rdata := statusWord s.params.w s.kpe.status.issued } : State) :=
        run_succ_of_step _ (step_engine_decoded hr rfl hdec rfl hexec)
    _ = _ := run_succ_of_step _ (step_poll_idle hr (exec_completes hexec).1 rfl)

end Sys2Proof.Machine

open Sys2Proof Sys2Proof.Machine

/-- Settles O60: the write of ARG0, EXEC of ENC.C, whose word is 0x110, and the read of RES0. -/
theorem encodeLineReadsTheResult : Obligations.EncodeLineReadsTheResult := by
  unfold Obligations.EncodeLineReadsTheResult
  intro s x k _ hr hb hexec
  rw [← encodeWord_encC] at hexec
  have hwrite := (argWriteStoresTheOperand.1 { s with inputs := HostLine.expand s.params (.encode x) } _ x hr hb).1 rfl
  calc core.run 6 ({ s with inputs := HostLine.expand s.params (.encode x) } : State)
    _ = core.run 5
          ({ s with
            inputs := execEvents s.params .encC ++ [readEvent s.params .res0], kpe := { s.kpe with arg0 := x } } : State) :=
        run_succ_of_step _ hwrite
    _ = core.run 1
          ({ s with inputs := [readEvent s.params .res0], kpe := k, rdata := statusWord s.params.w k.status } : State) :=
        run_execEvents 1 rfl hr hb rfl hexec
    _ = _ := run_succ_of_step _ (step_readReg .res0 hr rfl)

end

section
/-! The configuration commands (40_config.md): the reply of each in every case its rule names. -/

namespace Sys2Proof.Machine

open Sys2Proof.Config

/-! ### CFG (R100 to R103) -/

section Selector

variable {w : Nat} {v : BitVec w}

theorem classify_of_eq_neg_one (h : v.toInt = -1) : classify v = (.fullw, 0) := if_pos h

theorem classify_of_lt_neg_one (h : v.toInt < -1) : classify v = (.bfull, v) := by
  rw [classify, signed, if_neg (by omega), if_pos h]

theorem classify_of_le_sixteen (hpos : 0 ≤ v.toInt) (h : v.toInt ≤ 16) : classify v = (.table, v) := by
  rw [classify, signed, if_neg (by omega), if_neg (by omega), if_pos h]

theorem classify_of_gt_sixteen (h : 16 < v.toInt) : classify v = (.bhalf, v) := by
  rw [classify, signed, if_neg (by omega), if_neg (by omega), if_neg (by omega)]

/-- The selector gives BoundedFull for the sizes below -1 alone, and N is the size word. -/
theorem classify_eq_bfull {n : BitVec w} (h : classify v = (.bfull, n)) : v.toInt < -1 ∧ n = v := by
  unfold classify at h
  split_ifs at h with h1 h2 <;> cases h
  exact ⟨h2, rfl⟩

/-- N of a BoundedFull domain: the upper half of the words without ONES (R101). -/
theorem toNat_of_toInt_lt_neg_one (width : Width) {v : BitVec width.bits} (h : v.toInt < -1) :
    2 ^ (width.bits - 1) ≤ v.toNat ∧ v.toNat ≤ 2 ^ width.bits - 2 := by
  have hneg := BitVec.toInt_neg_iff.mp (show v.toInt < 0 by omega)
  rw [BitVec.toInt_eq_toNat_cond, if_neg (by omega)] at h
  cases width <;> simp only [Width.bits] at h hneg ⊢ <;> omega

/-- The words of a signed value from 0 on are below half the range. -/
theorem toNat_of_toInt_nonneg (width : Width) {v : BitVec width.bits} (h : 0 ≤ v.toInt) :
    v.toInt = v.toNat ∧ v.toNat ≤ 2 ^ (width.bits - 1) - 1 := by
  have hlt := BitVec.toInt_pos_iff.mp h
  refine ⟨BitVec.toInt_eq_toNat_of_lt hlt, ?_⟩
  cases width <;> simp only [Width.bits] at hlt ⊢ <;> omega

end Selector

theorem block_kbits_le {w : Nat} (n : BitVec w) : (block n).kbits ≤ w := Nat.sub_le _ _

theorem block_rshift_le {w : Nat} (n : BitVec w) : (block n).rshift ≤ w := by
  have hk := block_kbits_le n
  show 3 * (block n).kbits / 7 ≤ w
  omega

section Replies

variable {p : Params} {k : Kpe p} {v : Variant} {n : p.Word} {idx : Nat}

/-- A field of CFGR holds every number up to W (R31). -/
theorem toNat_cfgrField {m : Nat} (h : m ≤ p.w) : (BitVec.ofNat 8 m).toNat = m := by
  have := w_le_64 p
  rw [BitVec.toNat_ofNat, Nat.mod_eq_of_lt (by omega)]

theorem resolveRounds_eq {w : Nat} (v : Variant) (n : Nat) (r : BitVec w) :
    resolveRounds v n r.toNat = if v = .table then 0 else if r = 0 then defaultRounds v n else r.toNat := by
  cases v with
  | table => rfl
  | none | bhalf | bfull | fullw => simp [resolveRounds, ← BitVec.toNat_inj]

theorem configure_negative (h : k.arg1.toInt < 0) : configure k = .fail .rounds := if_pos h

/-- With a request from 0 on, the resolved round count decides (R100). -/
theorem configure_nonneg (hpos : 0 ≤ k.arg1.toInt) (hc : classify k.arg0 = (v, n)) :
    configure k = if resolveRounds v n.toNat k.arg1.toNat > p.rMax then .fail .rounds
      else .ok (k.configured v n (resolveRounds v n.toNat k.arg1.toNat)) := by
  simp only [configure, hc]
  exact if_neg (not_lt.mpr hpos)

/-! ### MULWR (R104) -/

theorem writeMultiplier_ready (sel : MulSel) (hs : k.status.state = .ready) : writeMultiplier k sel = .fail .locked :=
  if_pos hs

theorem writeMultiplier_even (sel : MulSel) (hs : k.status.state ≠ .ready) (h : k.arg0.getLsbD 0 = false) :
    writeMultiplier k sel = .fail .even := by
  simp [writeMultiplier, hs, isEven, h]

theorem writeMultiplier_odd (sel : MulSel) (hs : k.status.state ≠ .ready) (h : k.arg0.getLsbD 0 = true) :
    writeMultiplier k sel = .ok (k.setMultiplier sel k.arg0) := by
  simp [writeMultiplier, hs, isEven, h]

/-! ### KEYWR and KEYRD (R105, R106) -/

theorem keyIndexOk_eq_false {sel : KeySel} :
    k.keyIndexOk sel idx = false ↔ k.rounds.toNat ≤ idx ∨ sel = .k2 ∧ k.variant ≠ .fullw := by
  rw [← Bool.not_eq_true, keyIndexOk_iff, not_and_or, not_lt, Classical.not_imp]

theorem writeKey_unconf (sel : KeySel) (hs : k.status.state = .unconf) : writeKey k sel idx = .fail .state := if_pos hs

theorem writeKey_ready (sel : KeySel) (hs : k.status.state = .ready) : writeKey k sel idx = .fail .locked := by
  simp [writeKey, hs]

theorem writeKey_loading_ok {sel : KeySel} (hs : k.status.state = .loading) (h : k.keyIndexOk sel idx = true) :
    writeKey k sel idx = .ok (k.setKey sel idx k.arg0) := by
  simp [writeKey, hs, h]

theorem writeKey_loading_index {sel : KeySel} (hs : k.status.state = .loading) (h : k.keyIndexOk sel idx = false) :
    writeKey k sel idx = .fail .index := by
  simp [writeKey, hs, h]

theorem readKey_unconf (sel : KeySel) (hs : k.status.state = .unconf) : readKey k sel idx = .fail .state := if_pos hs

theorem readKey_configured_ok {sel : KeySel} (hs : k.status.state ≠ .unconf) (h : k.keyIndexOk sel idx = true) :
    readKey k sel idx = .ok { k with res0 := ramGet (k.keyRam sel) idx } := by
  simp [readKey, hs, h]

theorem readKey_configured_index {sel : KeySel} (hs : k.status.state ≠ .unconf) (h : k.keyIndexOk sel idx = false) :
    readKey k sel idx = .fail .index := by
  simp [readKey, hs, h]

/-! ### TBLWR and TBLRD (R107, R108) -/

theorem writeTable_unconf (hs : k.status.state = .unconf) : writeTable k idx = .fail .state := if_pos hs

theorem writeTable_ready (hs : k.status.state = .ready) : writeTable k idx = .fail .locked := by simp [writeTable, hs]

theorem writeTable_notTable (hs : k.status.state = .loading) (hv : k.variant ≠ .table) :
    writeTable k idx = .fail .state := by
  simp [writeTable, hs, hv]

/-- In LOADING a Table's N decides. -/
theorem writeTable_loading (hs : k.status.state = .loading) (hv : k.variant = .table) :
    writeTable k idx = if idx < k.nreg.toNat then .ok { k with fwd := ramSet k.fwd idx k.arg0 } else .fail .index := by
  by_cases h : idx < k.nreg.toNat <;> simp [writeTable, hs, hv, Kpe.tableIndexOk, h]

theorem readTable_noTable (sel : TableSel) (h : k.status.state = .unconf ∨ k.variant ≠ .table) :
    readTable k sel idx = .fail .state := by
  obtain hs | hv := h
  · exact if_pos hs
  · simp [readTable, hv]

/-- Outside UNCONF a Table's N decides. -/
theorem readTable_configured (sel : TableSel) (hs : k.status.state ≠ .unconf) (hv : k.variant = .table) :
    readTable k sel idx =
      if idx < k.nreg.toNat then .ok { k with res0 := ramGet (k.tableRam sel) idx } else .fail .index := by
  by_cases h : idx < k.nreg.toNat <;> simp [readTable, hs, hv, Kpe.tableIndexOk, h]

/-! ### ARM (R109) -/

theorem armKpe_unconf (hs : k.status.state = .unconf) : armKpe k = .fail .state := if_pos hs

theorem armKpe_notTable (hs : k.status.state ≠ .unconf) (hv : k.variant ≠ .table) :
    armKpe k = .ok (k.setState .ready) := by
  simp [armKpe, hs, hv]

/-- For a Table the two checks decide. -/
theorem armKpe_table (hs : k.status.state ≠ .unconf) (hv : k.variant = .table) :
    armKpe k = if k.tableInRange = true ∧ k.tableDistinct = true
      then .ok ({ k with inv := k.buildInverse k.nreg.toNat }.setState .ready) else .fail .table := by
  cases hr : k.tableInRange <;> cases hd : k.tableDistinct <;> simp [armKpe, hs, hv, hr, hd]

/-- The loop of ARM leaves 0 where no entry points. -/
theorem buildInverse_get_unreached {m j : Nat} (hj : j < 16) (h : ∀ i, i < m → j ≠ (ramGet k.fwd i).toNat) :
    ramGet (k.buildInverse m) j = 0 := by
  induction m with
  | zero => exact ramGet_replicate _ hj
  | succ m ih =>
    rw [Kpe.buildInverse, ramGet_ramSet_ne _ _ (h m (by omega))]
    exact ih fun i hi => h i (by omega)

end Replies

/-! ### The completion of a reply -/

variable {s : State} {i : Instr} {idx : Nat} {e : ErrCode}

theorem exec_of_ok {k : Kpe s.params} (h : replyOf i s.kpe = .ok k) : exec i s = .next (s.completedOk k) := by
  rw [exec_eq_complete, h, complete_ok]

theorem exec_of_fail (h : replyOf i s.kpe = .fail e) : exec i s = .next (s.completedWith e) := by
  rw [exec_eq_complete, h, complete_fail]

theorem forall_mem_pair {P : Instr → Prop} {a b : Instr} (ha : P a) (hb : P b) : ∀ i ∈ [a, b], P i :=
  List.forall_mem_cons.mpr ⟨ha, List.forall_mem_singleton.mpr hb⟩

theorem exec_mulwr_fail (h : ∀ sel, writeMultiplier s.kpe sel = .fail e) :
    ∀ i ∈ [Instr.mulwrC, .mulwrC1, .mulwrC2], exec i s = .next (s.completedWith e) :=
  List.forall_mem_cons.mpr
    ⟨exec_of_fail (h .c), forall_mem_pair (exec_of_fail (h .c1)) (exec_of_fail (h .c2))⟩

theorem exec_keywr_fail (h : ∀ sel, writeKey s.kpe sel idx = .fail e) :
    ∀ i ∈ [Instr.keywrK1 idx, .keywrK2 idx], exec i s = .next (s.completedWith e) :=
  forall_mem_pair (exec_of_fail (h .k1)) (exec_of_fail (h .k2))

theorem exec_keyrd_fail (h : ∀ sel, readKey s.kpe sel idx = .fail e) :
    ∀ i ∈ [Instr.keyrdK1 idx, .keyrdK2 idx], exec i s = .next (s.completedWith e) :=
  forall_mem_pair (exec_of_fail (h .k1)) (exec_of_fail (h .k2))

theorem exec_tblrd_fail (h : ∀ sel, readTable s.kpe sel idx = .fail e) :
    ∀ i ∈ [Instr.tblrdFwd idx, .tblrdInv idx], exec i s = .next (s.completedWith e) :=
  forall_mem_pair (exec_of_fail (h .fwd)) (exec_of_fail (h .inv))

end Sys2Proof.Machine

/-! ### The command words as numbers (R80) -/

namespace Sys2Proof

theorem toNat_append_eq_add {m n : Nat} (x : BitVec m) (y : BitVec n) : (x ++ y).toNat = x.toNat * 2 ^ n + y.toNat := by
  rw [BitVec.toNat_append, ← Nat.shiftLeft_add_eq_or_of_lt y.isLt, Nat.shiftLeft_eq]

/-- The command word as a number: the index from bit 16 up, over SEL, CHK and OP (R80). -/
theorem encode_toNat {i : Instr} {low : Nat} (h : i.idx < 65536)
    (hlow : i.selector.toNat * 2 ^ 9 + i.checked.toNat * 2 ^ 8 + i.opcode.toNat = low := by
      simp [Instr.selector, Instr.checked, Instr.opcode]) :
    (encode i).toNat = i.idx * 2 ^ 16 + low := by
  subst hlow
  simp only [encode, toNat_append_eq_add, BitVec.toNat_ofNat, Nat.mod_eq_of_lt (show i.idx < 2 ^ 16 from h)]
  omega

end Sys2Proof

open Sys2Proof Sys2Proof.Machine

/-- Settles O28: the resolved round count fits ROUNDS and W fits the fields of CFGR, so `configured` is the domain named. -/
theorem cfgConfiguresTheDomain : Obligations.CfgConfiguresTheDomain := by
  unfold Obligations.CfgConfiguresTheDomain
  refine ⟨by decide, fun s v n rounds hp hc hr => ?_⟩
  rw [← resolveRounds_eq] at hr
  subst hr
  refine ⟨fun hneg => exec_of_fail (configure_negative hneg),
    fun hpos hgt => exec_of_fail ((configure_nonneg hpos hc).trans (if_pos hgt)), fun hpos hle => ?_⟩
  refine ⟨_, exec_of_ok ((configure_nonneg hpos hc).trans (if_neg (not_lt.mpr hle))),
    rfl, rfl, rfl, toNat_rounds hp hle, ?_, ?_, ?_, rfl, rfl, rfl, rfl, rfl, rfl,
    fun i hi => ⟨ramGet_replicate _ hi, ramGet_replicate _ hi⟩, fun i hi => ⟨ramGet_replicate _ hi, ramGet_replicate _ hi⟩,
    rfl, rfl, rfl, rfl, rfl, rfl, rfl, rfl, rfl⟩
  · rintro (rfl | rfl) <;>
      exact ⟨rfl, toNat_cfgrField (block_kbits_le n), toNat_cfgrField (block_rshift_le n)⟩
  · rintro rfl
    exact ⟨rfl, toNat_cfgrField le_rfl, rfl⟩
  · rintro rfl
    exact ⟨rfl, rfl, rfl⟩

/-- Settles O29: by the four ranges of the size word. -/
theorem classifySelectsTheVariant : Obligations.ClassifySelectsTheVariant := by
  unfold Obligations.ClassifySelectsTheVariant
  refine fun width w => ⟨classify_of_eq_neg_one, fun h => ⟨classify_of_lt_neg_one h, toNat_of_toInt_lt_neg_one width h⟩,
    fun hpos h => ⟨classify_of_le_sixteen hpos h, ?_⟩, fun h => ⟨classify_of_gt_sixteen h, ?_⟩⟩
  · obtain ⟨hnat, -⟩ := toNat_of_toInt_nonneg width hpos
    omega
  · obtain ⟨hnat, hle⟩ := toNat_of_toInt_nonneg width (show 0 ≤ w.toInt by omega)
    exact ⟨by omega, hle⟩

/-- Settles O30: N of a BoundedFull domain is at least 2^(W-1), above the two lower bands. -/
theorem defaultRoundsBySizeBand : Obligations.DefaultRoundsBySizeBand := by
  unfold Obligations.DefaultRoundsBySizeBand
  have hfull (n : Nat) (h : 2 ^ 24 < n) : defaultRounds .bfull n = 5 :=
    (if_neg (by omega)).trans (if_neg (by omega))
  refine ⟨fun n => ⟨fun h => if_pos h, fun h h' => (if_neg (by omega)).trans (if_pos h'),
    fun h => (if_neg (by omega)).trans (if_neg (by omega)), fun h => if_pos h,
    fun h h' => (if_neg (by omega)).trans (if_pos h'), hfull n, rfl⟩, fun width w n hc => hfull _ ?_⟩
  obtain ⟨hlt, rfl⟩ := classify_eq_bfull hc
  have hband : 2 ^ 24 < 2 ^ (width.bits - 1) := by cases width <;> decide
  exact hband.trans_le (toNat_of_toInt_lt_neg_one width hlt).1

/-- Settles O32: by STATE, and in LOADING by the index. -/
theorem keywrWritesOneKey : Obligations.KeywrWritesOneKey := by
  unfold Obligations.KeywrWritesOneKey
  refine ⟨fun idx h => ⟨encode_toNat (i := .keywrK1 idx) h, encode_toNat (i := .keywrK2 idx) h⟩, fun s idx hle => ?_⟩
  refine ⟨fun hs => exec_keywr_fail fun sel => writeKey_unconf sel hs,
    fun hs => exec_keywr_fail fun sel => writeKey_ready sel hs,
    fun hs hge => exec_keywr_fail fun sel => writeKey_loading_index hs (keyIndexOk_eq_false.mpr (.inl hge)),
    fun hs hlt => ?_,
    fun hs _ hv => exec_of_fail (writeKey_loading_index hs (keyIndexOk_eq_false.mpr (.inr ⟨rfl, hv⟩))),
    fun hs hlt hv => ?_⟩
  · exact ⟨_, exec_of_ok (writeKey_loading_ok hs (keyIndexOk_iff.mpr ⟨hlt, nofun⟩)),
      ramGet_ramSet_same _ _ (hlt.trans_le hle), fun j => ramGet_ramSet_ne _ _⟩
  · exact ⟨_, exec_of_ok (writeKey_loading_ok hs (keyIndexOk_iff.mpr ⟨hlt, fun _ => hv⟩)),
      ramGet_ramSet_same _ _ (hlt.trans_le hle), fun j => ramGet_ramSet_ne _ _⟩

/-- Settles O34: by STATE and VARIANT, and in LOADING by the index. -/
theorem tblwrWritesOneEntry : Obligations.TblwrWritesOneEntry := by
  unfold Obligations.TblwrWritesOneEntry
  refine ⟨fun idx h => encode_toNat (i := .tblwr idx) h, fun s idx hle => ?_⟩
  refine ⟨fun hs => exec_of_fail (writeTable_unconf hs), fun hs => exec_of_fail (writeTable_ready hs),
    fun hs hv => exec_of_fail (writeTable_notTable hs hv),
    fun hs hv hge => exec_of_fail ((writeTable_loading hs hv).trans (if_neg (not_lt.mpr hge))),
    fun hs hv hlt => ⟨_, exec_of_ok ((writeTable_loading hs hv).trans (if_pos hlt)), ?_, fun j => ramGet_ramSet_ne _ _⟩⟩
  exact ramGet_ramSet_same _ _ (hlt.trans_le (hle hv))

/-- Settles O36: the two checks say that FWD[0..N) is a permutation, whose inverse the loop writes over zeros. -/
theorem armChecksAndFreezes : Obligations.ArmChecksAndFreezes := by
  unfold Obligations.ArmChecksAndFreezes
  refine ⟨by decide, fun s hle => ⟨fun hs => exec_of_fail (armKpe_unconf hs),
    fun hs hv => exec_of_ok (armKpe_notTable hs hv), fun hs hv => ⟨fun hbad => ?_, fun hr hd => ?_⟩⟩⟩
  · rw [← tableInRange_iff, ← tableDistinct_iff] at hbad
    exact exec_of_fail ((armKpe_table hs hv).trans (if_neg hbad))
  · have hfits (i : Nat) (hi : i < s.kpe.nreg.toNat) : (ramGet s.kpe.fwd i).toNat < 16 :=
      (show (ramGet s.kpe.fwd i).toNat < s.kpe.nreg.toNat from hr i hi).trans_le (hle hv)
    refine ⟨_, exec_of_ok ((armKpe_table hs hv).trans (if_pos ⟨tableInRange_iff.mpr hr, tableDistinct_iff.mpr hd⟩)),
      buildInverse_get hfits hd, fun j hj hlt => buildInverse_get_unreached hlt fun i hi he => ?_⟩
    have : (ramGet s.kpe.fwd i).toNat < s.kpe.nreg.toNat := hr i hi
    omega

/-- Settles O19: a failure keeps STATE, and of the successes only SRST's returns to UNCONF (R24). -/
theorem srstRestoresTheResetValues : Obligations.SrstRestoresTheResetValues := by
  unfold Obligations.SrstRestoresTheResetValues
  refine ⟨by decide, fun s => ⟨exec_of_ok rfl, ?_, fun i t h hne hun => ?_⟩⟩
  · show (statusWord s.params.width.bits Status.reset.succeeded).toNat = 2
    cases s.params.width <;> decide
  · obtain ⟨k, hk, rfl⟩ | ⟨e, -, rfl⟩ := exec_next h
    · replace hun : k.status.state = .unconf := hun
      obtain ⟨rfl, -⟩ | ⟨-, hs⟩ | ⟨-, -, hs⟩ := (succeeds_of_replyOf hk).state_change (by rw [hun]; exact hne.symm)
      · rfl
      · simp [hun] at hs
      · simp [hun] at hs
    · exact absurd hun hne

/-- Settles O27: the worked example of R110 at both widths. -/
theorem nopOnlyCompletes : Obligations.NopOnlyCompletes := by
  unfold Obligations.NopOnlyCompletes
  refine ⟨by decide, fun s => ⟨exec_of_ok rfl, fun hst => ?_⟩⟩
  show (statusWord s.params.width.bits s.kpe.status).toNat = 0x13A ∧
    (statusWord s.params.width.bits s.kpe.status.succeeded).toNat = 0x2A
  rw [hst]
  cases s.params.width <;> decide

/-- Settles O31: by STATE and bit 0 of the operand. -/
theorem mulwrWritesMultiplierAndInverse : Obligations.MulwrWritesMultiplierAndInverse := by
  unfold Obligations.MulwrWritesMultiplierAndInverse
  exact ⟨by decide, by decide, by decide, fun s =>
    ⟨fun hs => exec_mulwr_fail fun sel => writeMultiplier_ready sel hs,
      fun hs he => exec_mulwr_fail fun sel => writeMultiplier_even sel hs he,
      fun hs ho => ⟨exec_of_ok (writeMultiplier_odd .c hs ho), exec_of_ok (writeMultiplier_odd .c1 hs ho),
        exec_of_ok (writeMultiplier_odd .c2 hs ho)⟩⟩⟩

/-- Settles O33: by STATE, and outside UNCONF by the index. -/
theorem keyrdReadsOneKey : Obligations.KeyrdReadsOneKey := by
  unfold Obligations.KeyrdReadsOneKey
  refine ⟨fun idx h => ⟨encode_toNat (i := .keyrdK1 idx) h, encode_toNat (i := .keyrdK2 idx) h⟩, fun s idx => ?_⟩
  exact ⟨fun hs => exec_keyrd_fail fun sel => readKey_unconf sel hs,
    fun hs hge => exec_keyrd_fail fun sel => readKey_configured_index hs (keyIndexOk_eq_false.mpr (.inl hge)),
    fun hs hlt => exec_of_ok (readKey_configured_ok hs (keyIndexOk_iff.mpr ⟨hlt, nofun⟩)),
    fun hs _ hv => exec_of_fail (readKey_configured_index hs (keyIndexOk_eq_false.mpr (.inr ⟨rfl, hv⟩))),
    fun hs hlt hv => exec_of_ok (readKey_configured_ok hs (keyIndexOk_iff.mpr ⟨hlt, fun _ => hv⟩))⟩

/-- Settles O35: by STATE and VARIANT, and for a configured Table by the index. -/
theorem tblrdReadsOneEntry : Obligations.TblrdReadsOneEntry := by
  unfold Obligations.TblrdReadsOneEntry
  refine ⟨fun idx h => ⟨encode_toNat (i := .tblrdFwd idx) h, encode_toNat (i := .tblrdInv idx) h⟩,
    fun s idx => ⟨fun h => exec_tblrd_fail fun sel => readTable_noTable sel h, fun hs hv hge => ?_, fun hs hv hlt => ?_⟩⟩
  · exact exec_tblrd_fail fun sel => (readTable_configured sel hs hv).trans (if_neg (not_lt.mpr hge))
  · have hok (sel : TableSel) := (readTable_configured sel hs hv).trans (if_pos hlt)
    exact ⟨exec_of_ok (hok .fwd), exec_of_ok (hok .inv)⟩

end

section
/-! The datapath (section 1 of 41_engine.md): the bounded round as arithmetic (R140), the passes as folds of their rounds
(R141, R143, R145, R146), the cycle-walking controller as a search (R144). -/

namespace Sys2Proof.Machine

open Sys2Proof.Config

/-! ### The bounded round (R140) -/

/-- Wrapping at 2^W changes nothing modulo 2^k, since k <= W. -/
theorem roundF_sum_toNat {p : Params} {k : Kpe p} (h : k.BoundedConfig) (x key : p.Word) :
    ((x * k.c + key) &&& k.mask).toNat = (x.toNat * k.c.toNat + key.toNat) % 2 ^ k.kbits.toNat := by
  rw [h.maskEq, and_maskOf_toNat _ h.kbitsLe, BitVec.toNat_add, BitVec.toNat_mul, Nat.mod_add_mod,
    Nat.mod_mod_of_dvd _ (pow_dvd_pow 2 h.kbitsLe)]

/-! ### The passes (R141, R143, R145, R146) -/

section Folds

variable {α : Type} {pass : Nat → α → α} {round : α → Nat → α} (hzero : ∀ x, pass 0 x = x)
include hzero

theorem eq_foldl_range (hsucc : ∀ n x, pass (n + 1) x = round (pass n x) n) (n : Nat) (x : α) :
    pass n x = (List.range n).foldl round x := by
  induction n with
  | zero => exact hzero x
  | succ n ih => rw [hsucc, ih, List.range_succ, List.foldl_append, List.foldl_cons, List.foldl_nil]

theorem eq_foldl_range_reverse (hsucc : ∀ n x, pass (n + 1) x = pass n (round x n)) (n : Nat) (x : α) :
    pass n x = (List.range n).reverse.foldl round x := by
  induction n generalizing x with
  | zero => exact hzero x
  | succ n ih => rw [hsucc, ih, List.range_succ, List.reverse_concat, List.foldl_cons]

end Folds

/-! ### The walk (R144) -/

/-- The loop searches the passes from the first on. -/
theorem walkLoop_eq_find {w : Nat} (pass : BitVec w → BitVec w) (nreg : BitVec w) (left : Nat) (x : BitVec w) (n : Nat) :
    walkLoop pass nreg left x n =
      ((List.range (left + 1)).find? fun j => pass^[j + 1] x < nreg).map fun j => (pass^[j + 1] x, n + (j + 1)) := by
  induction left generalizing x n with
  | zero => by_cases h : pass x < nreg <;> simp [walkLoop, h]
  | succ left ih =>
    rw [walkLoop, List.range_succ_eq_map, List.find?_cons, List.find?_map]
    by_cases h : pass x < nreg
    · simp [h]
    · have hcount (j : Nat) : n + 1 + (j + 1) = n + (j + 1 + 1) := by omega
      rw [if_neg h, ih, decide_eq_false (p := pass^[0 + 1] x < nreg) h]
      simp only [Option.map_map, hcount]
      rfl

section Walk

variable {p : Params} {k : Kpe p} {pass : p.Word → p.Word} {x : p.Word}

theorem walk_eq_find : walk k pass x =
    ((List.range (walkLimit k)).find? fun j => pass^[j + 1] (x &&& k.mask) < k.nreg).map
      fun j => (pass^[j + 1] (x &&& k.mask), j + 1) := by
  simp [walk, walkLoop_eq_find, walkLimit]

/-- The walk's value is the first pass below N, within the limit. -/
theorem walk_eq_some_iff {y : p.Word} {n : Nat} : walk k pass x = some (y, n) ↔
    1 ≤ n ∧ n ≤ walkLimit k ∧ y = pass^[n] (x &&& k.mask) ∧ y < k.nreg ∧
      ∀ j, 1 ≤ j → j < n → ¬ pass^[j] (x &&& k.mask) < k.nreg := by
  rw [walk_eq_find, Option.map_eq_some_iff]
  simp only [List.find?_range_eq_some, List.mem_range, decide_eq_true_eq, Bool.not_eq_true', decide_eq_false_iff_not,
    Prod.mk.injEq]
  constructor
  · rintro ⟨j, ⟨hlt, hj, hfirst⟩, rfl, rfl⟩
    refine ⟨by omega, hj, rfl, hlt, fun i hi hij => ?_⟩
    obtain ⟨i, rfl⟩ := Nat.exists_eq_add_of_le' hi
    exact hfirst i (by omega)
  · rintro ⟨hn, hle, rfl, hlt, hfirst⟩
    obtain ⟨n, rfl⟩ := Nat.exists_eq_add_of_le' hn
    exact ⟨n, ⟨hlt, hle, fun j hj => hfirst (j + 1) (by omega) (by omega)⟩, rfl, rfl⟩

theorem walk_eq_none_iff : walk k pass x = none ↔
    ∀ j, 1 ≤ j → j ≤ walkLimit k → ¬ pass^[j] (x &&& k.mask) < k.nreg := by
  rw [walk_eq_find, Option.map_eq_none_iff, List.find?_range_eq_none]
  simp only [Bool.not_eq_true', decide_eq_false_iff_not]
  constructor
  · intro h j hj hle
    obtain ⟨j, rfl⟩ := Nat.exists_eq_add_of_le' hj
    exact h j hle
  · exact fun h j hj => h (j + 1) (by omega) hj

end Walk

end Sys2Proof.Machine

open Sys2Proof.Machine

/-- Settles O48: `roundF` is the self-xor-shift of that remainder. -/
theorem boundedRoundIsMultiplyAddXorShift : Obligations.BoundedRoundIsMultiplyAddXorShift := by
  unfold Obligations.BoundedRoundIsMultiplyAddXorShift
  intro p k x r h
  rw [roundF, BitVec.toNat_xor, BitVec.toNat_ushiftRight, roundF_sum_toNat h]

/-- Settles O50: each pass recurses as the fold does, the last round outermost or, for the inverses, first. -/
theorem passesApplyTheRoundsInOrder : Obligations.PassesApplyTheRoundsInOrder := by
  unfold Obligations.PassesApplyTheRoundsInOrder
  exact fun p k x =>
    ⟨eq_foldl_range (pass := fwdRounds k) (fun _ => rfl) (fun _ _ => rfl) _ x,
      eq_foldl_range_reverse (pass := invRounds k) (fun _ => rfl) (fun _ _ => rfl) _ x,
      eq_foldl_range (pass := fwRounds k) (fun _ => rfl) (fun _ _ => rfl) _ x,
      eq_foldl_range_reverse (pass := fwInvRounds k) (fun _ => rfl) (fun _ _ => rfl) _ x⟩

/-- Settles O51: the walk is a search through the passes up to the limit; with N above 2^(k-1) the limit is at most that. -/
theorem walkReturnsTheFirstPassBelowN : Obligations.WalkReturnsTheFirstPassBelowN := by
  unfold Obligations.WalkReturnsTheFirstPassBelowN
  refine fun p k pass x hle => ⟨fun y n => walk_eq_some_iff, walk_eq_none_iff, fun hlow => ?_⟩
  cases hk : k.kbits.toNat with
  | zero => simp only [hk] at hle hlow; omega
  | succ m => simp only [hk, pow_succ, Nat.add_sub_cancel] at hle hlow ⊢; omega

end

section
/-! The engine commands (section 2 of 41_engine.md): the reply of each in every case its rule names. -/

namespace Sys2Proof.Machine

open Sys2Proof.Config

section Replies

variable {p : Params} {k : Kpe p} {x y : p.Word}

/-! ### The datapath by variant (R147) -/

theorem permute_table (hv : k.variant = .table) : permute k x = .ok (ramGet k.fwd x.toNat, 0) := by simp [permute, hv]

theorem permute_fullw (hv : k.variant = .fullw) : permute k x = .ok (fwEnc k x, 1) := by simp [permute, hv]

theorem permute_bounded (hv : k.variant = .bhalf ∨ k.variant = .bfull) :
    permute k x = walkReply p.w (walk k (passFwd k) x) := by
  obtain hv | hv := hv <;> simp [permute, hv]

theorem unpermute_table (hv : k.variant = .table) : unpermute k x = .ok (ramGet k.inv x.toNat, 0) := by
  simp [unpermute, hv]

theorem unpermute_fullw (hv : k.variant = .fullw) : unpermute k x = .ok (fwDec k x, 1) := by simp [unpermute, hv]

theorem unpermute_bounded (hv : k.variant = .bhalf ∨ k.variant = .bfull) :
    unpermute k x = walkReply p.w (walk k (passInv k) x) := by
  obtain hv | hv := hv <;> simp [unpermute, hv]

/-- ENC and DEC refuse an argument from N on for a Table, and for a bounded variant when checked. -/
theorem outOfDomain_iff {chk : Bool} : k.outOfDomain chk x = true ↔
    ¬ x < k.nreg ∧ (k.variant = .table ∨ chk = true ∧ (k.variant = .bhalf ∨ k.variant = .bfull)) := by
  cases hv : k.variant <;> simp [Kpe.outOfDomain, hv, and_comm]

/-! ### ENC and DEC (R148, R149) -/

/-- What ENC and DEC have in common: the two checks before the datapath's answer `r`. -/
def Kpe.answer (k : Kpe p) (chk : Bool) (r : Reply (p.Word × p.Word)) : Reply (Kpe p) :=
  if k.status.state ≠ .ready then .fail .state
  else if k.outOfDomain chk k.arg0 then .fail .domain
  else k.withValue r

section Answer

variable {chk : Bool} {r : Reply (p.Word × p.Word)}

theorem answer_notReady (hs : k.status.state ≠ .ready) : k.answer chk r = .fail .state := if_pos hs

theorem answer_outOfDomain (hs : k.status.state = .ready) (hd : k.outOfDomain chk k.arg0 = true) :
    k.answer chk r = .fail .domain :=
  (if_neg (not_not.mpr hs)).trans (if_pos hd)

theorem answer_inDomain (hs : k.status.state = .ready) (hd : ¬ k.outOfDomain chk k.arg0 = true) :
    k.answer chk r = k.withValue r :=
  (if_neg (not_not.mpr hs)).trans (if_neg hd)

end Answer

/-! ### ITSTART (R150) -/

theorem startIterator_notReady (hs : k.status.state ≠ .ready) : startIterator k = .fail .state := if_pos hs

theorem startIterator_fullw (hs : k.status.state = .ready) (hv : k.variant = .fullw) :
    startIterator k = .ok (k.setIterator k.arg0 true) := by
  simp [startIterator, hs, hv]

/-- On a finite variant N decides. -/
theorem startIterator_finite (hs : k.status.state = .ready) (hv : k.variant ≠ .fullw) :
    startIterator k =
      if k.arg0 ≤ k.nreg then .ok (k.setIterator k.arg0 (decide (k.arg0 < k.nreg))) else .fail .domain := by
  by_cases h : k.arg0 ≤ k.nreg <;> simp [startIterator, hs, hv, h]

/-! ### ITNEXT (R151) -/

theorem nextElement_notReady (hs : k.status.state ≠ .ready) : nextElement k = .fail .state := if_pos hs

theorem nextElement_ended (hs : k.status.state = .ready) (hi : k.status.itv = false) : nextElement k = .fail .nosuch := by
  simp [nextElement, hs, hi]

theorem nextElement_valid {k' : Kpe p} {m : p.Word} (hs : k.status.state = .ready) (hi : k.status.itv = true)
    (h : permute k k.iter = .ok (y, m)) (hmove : (k.setResults y m k.iter).advanceIterator k.iter = k') :
    nextElement k = .ok k' := by
  simp [nextElement, hs, hi, h, hmove]

theorem advanceIterator_finite (hv : k.variant ≠ .fullw) :
    k.advanceIterator x = k.setIterator (x + 1) (decide (x + 1 < k.nreg)) := if_neg hv

theorem advanceIterator_fullw_last (hv : k.variant = .fullw) (hx : x = ones p.w) :
    k.advanceIterator x = k.setIterator x false := (if_pos hv).trans (if_pos hx)

/-- Before index ONES a FullWord iterator stays valid: ITER alone changes. -/
theorem advanceIterator_fullw (hv : k.variant = .fullw) (hi : k.status.itv = true) (hx : x ≠ ones p.w) :
    k.advanceIterator x = { k with iter := x + 1 } := by
  rw [Kpe.advanceIterator, if_pos hv, if_neg hx, Kpe.setIterator, ← hi]
  rfl

end Replies

/-! ### The completion of ENC and DEC -/

section Answers

variable {s : State} {i : Instr} {chk : Bool} {r : Reply (s.params.Word × s.params.Word)}
  (h : replyOf i s.kpe = s.kpe.answer chk r) (hs : s.kpe.status.state = .ready)
include h hs

theorem exec_answer_outOfDomain (hd : s.kpe.outOfDomain chk s.kpe.arg0 = true) :
    exec i s = .next (s.completedWith .domain) :=
  exec_of_fail (h.trans (answer_outOfDomain hs hd))

theorem exec_answer_value {y m : s.params.Word} (hd : ¬ s.kpe.outOfDomain chk s.kpe.arg0 = true) (hr : r = .ok (y, m)) :
    exec i s = .next (s.completedOk { s.kpe with res0 := y, res1 := m, res2 := 0 }) := by
  subst hr
  exact exec_of_ok (h.trans (answer_inDomain hs hd))

end Answers

/-- A command without and with its CHK flag, whose datapath answers `r`. -/
def State.AnswersBy (s : State) (plain checked : Instr) (r : Reply (s.params.Word × s.params.Word)) : Prop :=
  ∀ i ∈ [plain, checked], ∃ chk, (chk = true → i = checked) ∧ replyOf i s.kpe = s.kpe.answer chk r

theorem answersBy_enc (s : State) : s.AnswersBy .encU .encC (permute s.kpe s.kpe.arg0) :=
  forall_mem_pair ⟨false, nofun, rfl⟩ ⟨true, fun _ => rfl, rfl⟩

theorem answersBy_dec (s : State) : s.AnswersBy .decU .decC (unpermute s.kpe s.kpe.arg0) :=
  forall_mem_pair ⟨false, nofun, rfl⟩ ⟨true, fun _ => rfl, rfl⟩

section Pair

variable {s : State} {plain checked : Instr} {r : Reply (s.params.Word × s.params.Word)}
  (hpair : s.AnswersBy plain checked r)
include hpair

theorem State.AnswersBy.notReady (hs : s.kpe.status.state ≠ .ready) :
    ∀ i ∈ [plain, checked], exec i s = .next (s.completedWith .state) := by
  intro i hi
  obtain ⟨chk, -, h⟩ := hpair i hi
  exact exec_of_fail (h.trans (answer_notReady hs))

variable (hs : s.kpe.status.state = .ready)
include hs

/-- A Table checks the argument whatever CHK is. -/
theorem State.AnswersBy.table {y : s.params.Word} (hv : s.kpe.variant = .table) (hr : r = .ok (y, 0)) :
    ∀ i ∈ [plain, checked],
      (s.kpe.arg0 < s.kpe.nreg → exec i s = .next (s.completedOk { s.kpe with res0 := y, res1 := 0, res2 := 0 })) ∧
      (¬ s.kpe.arg0 < s.kpe.nreg → exec i s = .next (s.completedWith .domain)) := by
  intro i hi
  obtain ⟨chk, -, h⟩ := hpair i hi
  exact ⟨fun hlt => exec_answer_value h hs (fun hd => (outOfDomain_iff.mp hd).1 hlt) hr,
    fun hge => exec_answer_outOfDomain h hs (outOfDomain_iff.mpr ⟨hge, .inl hv⟩)⟩

/-- FullWord never checks the argument. -/
theorem State.AnswersBy.fullw {y : s.params.Word} (hv : s.kpe.variant = .fullw) (hr : r = .ok (y, 1)) :
    ∀ i ∈ [plain, checked], exec i s = .next (s.completedOk { s.kpe with res0 := y, res1 := 1, res2 := 0 }) := by
  intro i hi
  obtain ⟨chk, -, h⟩ := hpair i hi
  exact exec_answer_value h hs (fun hd => by simp [outOfDomain_iff, hv] at hd) hr

/-- A bounded variant checks the argument when CHK is 1 alone; then the walk decides (R144). -/
theorem State.AnswersBy.walk {o : Option (s.params.Word × Nat)} (hv : s.kpe.variant = .bhalf ∨ s.kpe.variant = .bfull)
    (hr : r = walkReply s.params.w o) :
    ∀ i ∈ [plain, checked], (i = checked → s.kpe.arg0 < s.kpe.nreg) →
      (∀ y n, o = some (y, n) →
        exec i s = .next (s.completedOk { s.kpe with res0 := y, res1 := BitVec.ofNat s.params.w n, res2 := 0 })) ∧
      (o = none → exec i s = .next (s.completedWith .walk)) := by
  intro i hi hlt
  obtain ⟨chk, hchk, h⟩ := hpair i hi
  have hin : ¬ s.kpe.outOfDomain chk s.kpe.arg0 = true := by
    rw [outOfDomain_iff]
    rintro ⟨hge, ht | ⟨hc, -⟩⟩
    · simp [ht] at hv
    · exact hge (hlt (hchk hc))
  subst hr
  constructor
  · rintro y n rfl
    exact exec_answer_value h hs hin rfl
  · rintro rfl
    exact exec_of_fail (h.trans (answer_inDomain hs hin))

end Pair

end Sys2Proof.Machine

open Sys2Proof Sys2Proof.Machine

/-- Settles O37: the two checks, then the permutation by VARIANT. -/
theorem encEncodesInEveryVariant : Obligations.EncEncodesInEveryVariant := by
  unfold Obligations.EncEncodesInEveryVariant
  refine ⟨by decide, by decide, fun s => ⟨(answersBy_enc s).notReady, fun hs =>
    ⟨fun hv => (answersBy_enc s).table hs hv (permute_table hv),
      fun hv => (answersBy_enc s).fullw hs hv (permute_fullw hv),
      fun hv => ⟨fun hge => ?_, (answersBy_enc s).walk hs hv (permute_bounded hv)⟩⟩⟩⟩
  exact exec_answer_outOfDomain (chk := true) rfl hs (outOfDomain_iff.mpr ⟨hge, .inr ⟨rfl, hv⟩⟩)

/-- Settles O38: as ENC, with the inverse permutation. -/
theorem decDecodesInEveryVariant : Obligations.DecDecodesInEveryVariant := by
  unfold Obligations.DecDecodesInEveryVariant
  refine ⟨by decide, by decide, fun s => ⟨(answersBy_dec s).notReady, fun hs =>
    ⟨fun hv => (answersBy_dec s).table hs hv (unpermute_table hv),
      fun hv => (answersBy_dec s).fullw hs hv (unpermute_fullw hv),
      fun hv => ⟨fun hge => ?_, (answersBy_dec s).walk hs hv (unpermute_bounded hv)⟩⟩⟩⟩
  exact exec_answer_outOfDomain (chk := true) rfl hs (outOfDomain_iff.mpr ⟨hge, .inr ⟨rfl, hv⟩⟩)

/-- Settles O39: by STATE and VARIANT, and on a finite variant by the offset. -/
theorem itstartSetsTheIterator : Obligations.ItstartSetsTheIterator := by
  unfold Obligations.ItstartSetsTheIterator
  refine ⟨by decide, fun s => ⟨fun hs => exec_of_fail (startIterator_notReady hs), fun hs =>
    ⟨fun hv => exec_of_ok (startIterator_fullw hs hv),
      fun hv hgt => exec_of_fail ((startIterator_finite hs hv).trans (if_neg (BitVec.not_le.mpr hgt))),
      fun hv hlt => ?_, fun hv heq => ?_⟩⟩⟩
  · have h := (startIterator_finite hs hv).trans (if_pos (BitVec.le_of_lt hlt))
    rw [decide_eq_true hlt] at h
    exact exec_of_ok h
  · have h := (startIterator_finite hs hv).trans (if_pos (BitVec.le_of_eq heq))
    rw [decide_eq_false (fun hlt => BitVec.ne_of_lt hlt heq)] at h
    exact exec_of_ok h

/-- Settles O40: the datapath gives the element; ITER and ITV move by VARIANT. -/
theorem itnextReturnsTheNextElement : Obligations.ItnextReturnsTheNextElement := by
  unfold Obligations.ItnextReturnsTheNextElement
  refine ⟨by decide, fun s => ⟨fun hs => exec_of_fail (nextElement_notReady hs),
    fun hs hi => exec_of_fail (nextElement_ended hs hi), fun hs hi =>
    ⟨fun hv => exec_of_ok ?_, fun hv hlast => exec_of_ok ?_, fun hv hlast => exec_of_ok ?_,
      fun hv y n hw => exec_of_ok ?_⟩⟩⟩
  · have hfin : s.kpe.variant ≠ .fullw := by simp [hv]
    exact nextElement_valid hs hi (permute_table hv) (advanceIterator_finite hfin)
  · exact nextElement_valid hs hi (permute_fullw hv) (advanceIterator_fullw_last hv hlast)
  · exact nextElement_valid hs hi (permute_fullw hv) (advanceIterator_fullw hv hi hlast)
  · have hfin : s.kpe.variant ≠ .fullw := by obtain hv | hv := hv <;> simp [hv]
    have hp : permute s.kpe s.kpe.iter = .ok (y, BitVec.ofNat s.params.w n) := by rw [permute_bounded hv, hw, walkReply]
    exact nextElement_valid hs hi hp (advanceIterator_finite hfin)

end

section
/-! The bit-math commands (42_math.md): the bounds of `block` (R180) and the loop of `invXorShift` unrolled (R182). -/

namespace Sys2Proof.Machine

open Sys2Proof.Config

/-! ### `block` (R180) -/

section Block

variable {w : Nat} {n : BitVec w}

/-- The width less the leading zeros is the number of bits a nonzero word needs. -/
theorem toNat_bounds_of_clz {m : BitVec w} (hw : 0 < w) (hm : m ≠ 0#w) :
    1 ≤ w - m.clz.toNat ∧ 2 ^ (w - m.clz.toNat - 1) ≤ m.toNat ∧ m.toNat < 2 ^ (w - m.clz.toNat) := by
  have hclz : m.clz.toNat < w := by simpa [BitVec.lt_def] using BitVec.clz_lt_iff_ne_zero.mpr hm
  have hge := BitVec.two_pow_sub_clz_le_toNat_of_ne_zero hw hm
  rw [Nat.sub_right_comm] at hge
  exact ⟨by omega, hge, BitVec.toNat_lt_two_pow_sub_clz⟩

/-- k counts the bits of `max(n, 2) - 1`. -/
theorem block_kbits_eq_sub_clz (hw : 2 ≤ w) :
    ∃ m : BitVec w, m.toNat = max n.toNat 2 - 1 ∧ (block n).kbits = w - m.clz.toNat := by
  have hfits : 2 < 2 ^ w := lt_of_lt_of_le (by decide : 2 < 2 ^ 2) (Nat.pow_le_pow_right two_pos hw)
  have htwo : (2#w).toNat = 2 := by rw [BitVec.toNat_ofNat, Nat.mod_eq_of_lt hfits]
  have hone : (1#w).toNat = 1 := BitVec.toNat_one (by omega)
  have hmax : (if n < 2#w then 2#w else n).toNat = max n.toNat 2 := by
    simp only [apply_ite BitVec.toNat, BitVec.lt_def, htwo]
    split <;> omega
  refine ⟨_, ?_, rfl⟩
  rw [BitVec.toNat_sub_of_le (BitVec.le_def.mpr (by omega)), hmax, hone]

/-- k is the least number with `max(n, 2) <= 2^k` (R180). -/
theorem block_kbits_bounds (hw : 2 ≤ w) :
    1 ≤ (block n).kbits ∧ 2 ^ ((block n).kbits - 1) < max n.toNat 2 ∧ max n.toNat 2 ≤ 2 ^ (block n).kbits := by
  obtain ⟨m, hm, hk⟩ := block_kbits_eq_sub_clz (n := n) hw
  have hne : m ≠ 0#w := by
    rintro rfl
    rw [BitVec.toNat_zero] at hm
    omega
  obtain ⟨hpos, hlo, hhi⟩ := toNat_bounds_of_clz (by omega) hne
  rw [hk]
  exact ⟨hpos, by omega, by omega⟩

end Block

/-! ### `invXorShift` (R182) -/

/-- `m` turns of the loop of R182 from the shift `t`: the self-xor-shifts by `t`, `2t`, `4t`, ... -/
def xorShifts {w : Nat} (t m : Nat) (v : BitVec w) : BitVec w :=
  (List.range m).foldl (fun u j => xorShift (t * 2 ^ j) u) v

theorem xorShifts_succ {w : Nat} (t m : Nat) (v : BitVec w) :
    xorShifts t (m + 1) v = xorShifts (2 * t) m (xorShift t v) := by
  have hshift (j : Nat) : t * 2 ^ (j + 1) = 2 * t * 2 ^ j := by ring
  simp only [xorShifts, List.range_succ_eq_map, List.foldl_cons, List.foldl_map, Nat.succ_eq_add_one, hshift, pow_zero,
    mul_one]

/-- `m` is the number of doublings that take the shift `t` to `k`: the least with `t * 2^m >= k` (R185). -/
def IsDoublings (k t m : Nat) : Prop := k ≤ t * 2 ^ m ∧ ∀ j < m, t * 2 ^ j < k

theorem IsDoublings.zero {k t : Nat} (h : k ≤ t) : IsDoublings k t 0 := ⟨by simpa using h, by simp⟩

theorem IsDoublings.succ {k t m : Nat} (hlt : t < k) (h : IsDoublings k (2 * t) m) : IsDoublings k t (m + 1) := by
  have hshift (j : Nat) : t * 2 ^ (j + 1) = 2 * t * 2 ^ j := by ring
  refine ⟨hshift m ▸ h.1, fun j hj => ?_⟩
  cases j with
  | zero => simpa using hlt
  | succ j => exact hshift j ▸ h.2 j (by omega)

/-- The loop makes as many turns as it takes the shift to reach `k`. -/
theorem xorShiftLoop_eq_xorShifts {w k : Nat} (fuel t : Nat) (v : BitVec w) (n : Nat) (h : k ≤ t * 2 ^ fuel) :
    ∃ m, IsDoublings k t m ∧ xorShiftLoop k fuel t v n = (xorShifts t m v, n + m) := by
  induction fuel generalizing t v n with
  | zero => exact ⟨0, .zero (by simpa using h), rfl⟩
  | succ fuel ih =>
    rw [xorShiftLoop]
    split
    · obtain ⟨m, hm, heq⟩ := ih (2 * t) (v ^^^ (v >>> t)) (n + 1) (by rw [pow_succ] at h; linarith)
      refine ⟨m + 1, hm.succ ‹_›, ?_⟩
      rw [heq, xorShifts_succ, Nat.add_right_comm, Nat.add_assoc]
      rfl
    · exact ⟨0, .zero (by omega), rfl⟩

/-- Both results of `invXorShift` by the number of turns of its loop (R182, R185). -/
theorem invXorShift_eq_xorShifts {w s : Nat} (v : BitVec w) (k : Nat) (hs : 1 ≤ s) :
    ∃ m, IsDoublings k s m ∧ invXorShift v s k = xorShifts s m v &&& maskOf w k ∧ invXorShiftIterations v s k = m := by
  have hfuel : k ≤ s * 2 ^ k := le_trans Nat.lt_two_pow_self.le (Nat.le_mul_of_pos_left _ hs)
  obtain ⟨m, hm, heq⟩ := xorShiftLoop_eq_xorShifts k s v 0 hfuel
  exact ⟨m, hm, by rw [invXorShift, heq], by rw [invXorShiftIterations, heq, Nat.zero_add]⟩

/-! ### The replies of the commands (R183 to R185) -/

section Replies

variable {p : Params} {k : Kpe p}

theorem blockCommand_zero (h : k.arg0 = 0) : blockCommand k = .fail .arg := if_pos h

theorem blockCommand_ne_zero (h : k.arg0 ≠ 0) :
    blockCommand k = .ok (k.setResults (maskOf p.w (block k.arg0).kbits) (BitVec.ofNat p.w (block k.arg0).kbits)
      (BitVec.ofNat p.w (3 * (block k.arg0).kbits / 7))) := if_neg h

theorem invoddCommand_even (h : k.arg0.getLsbD 0 = false) : invoddCommand k = .fail .even :=
  if_pos ((isEven_iff _).mpr h)

theorem invoddCommand_odd (h : k.arg0.getLsbD 0 = true) :
    invoddCommand k = .ok (k.setResults (newtonSteps k.arg0 6 1#p.w &&& k.arg1) 0 0) :=
  if_neg (by simpa using h)

theorem invxsCommand_arg (h : k.arg2 = 0 ∨ p.w < k.arg2.toNat ∨ k.arg1 = 0) : invxsCommand k = .fail .arg := by
  have hchecks : k.arg2.toNat = 0 ∨ k.arg2.toNat > p.w ∨ k.arg1.toNat = 0 :=
    h.imp (fun h2 => by simp [h2]) (.imp_right fun h1 => by simp [h1])
  simp only [invxsCommand]
  split
  · rfl
  · rw [if_pos (by omega)]

theorem invxsCommand_inverse (hk : 1 ≤ k.arg2.toNat) (hkw : k.arg2.toNat ≤ p.w) (hs : 1 ≤ k.arg1.toNat) :
    ∃ m, IsDoublings k.arg2.toNat k.arg1.toNat m ∧
      invxsCommand k = .ok (k.setResults (xorShifts k.arg1.toNat m k.arg0 &&& maskOf p.w k.arg2.toNat)
        (BitVec.ofNat p.w m) 0) := by
  obtain ⟨m, hm, hinv, hiter⟩ := invXorShift_eq_xorShifts k.arg0 k.arg2.toNat hs
  refine ⟨m, hm, ?_⟩
  rw [invxsCommand, if_neg (by omega), if_neg (by omega), hinv, hiter]

end Replies

end Sys2Proof.Machine

open Sys2Proof Sys2Proof.Machine

/-- Settles O44: k from the leading zeros of max(n, 2) - 1, the mask as a number. -/
theorem blockParametersOfN : Obligations.BlockParametersOfN := by
  unfold Obligations.BlockParametersOfN
  intro width n _
  obtain ⟨hpos, hlt, hle⟩ := block_kbits_bounds (n := n) (by cases width <;> decide)
  exact ⟨hpos, block_kbits_le n, hle, hlt, maskOf_toNat (block_kbits_le n), rfl⟩

/-- Settles O41: the bounds of k; only the operand 1 is below the 2 of max(n, 2), and its k is 1. -/
theorem blockReturnsItsParameters : Obligations.BlockReturnsItsParameters := by
  unfold Obligations.BlockReturnsItsParameters
  refine ⟨by decide, fun s => ⟨fun h0 => exec_of_fail (blockCommand_zero h0), fun hne => ?_⟩⟩
  obtain ⟨hk, hkw, hle, hlt, -⟩ :=
    blockParametersOfN s.params.width s.kpe.arg0 (BitVec.toNat_pos_of_ne_zero hne)
  refine ⟨_, _, ?_, (le_max_left _ _).trans hle, hk, hkw, rfl, exec_of_ok (blockCommand_ne_zero hne)⟩
  obtain hone | htwo := Nat.lt_or_ge s.kpe.arg0.toNat 2
  · rw [max_eq_right hone.le] at hlt
    have hexp : (block s.kpe.arg0).kbits - 1 < 1 := (Nat.pow_lt_pow_iff_right one_lt_two).mp hlt
    exact .inl (by omega)
  · exact .inr (max_eq_left htwo ▸ hlt)

/-- Settles O42: the six Newton steps give the inverse, which `invOdd` masks. -/
theorem invoddReturnsTheInverse : Obligations.InvoddReturnsTheInverse := by
  unfold Obligations.InvoddReturnsTheInverse
  exact ⟨by decide, fun s => ⟨fun heven => exec_of_fail (invoddCommand_even heven), fun hodd =>
    ⟨_, mul_newtonSteps_six (w_le_64 s.params) hodd, exec_of_ok (invoddCommand_odd hodd)⟩⟩⟩

/-- Settles O43: the checks of k and s, then the loop unrolled. -/
theorem invxsReturnsTheInverseAndItsIterations : Obligations.InvxsReturnsTheInverseAndItsIterations := by
  unfold Obligations.InvxsReturnsTheInverseAndItsIterations
  refine ⟨by decide, fun s => ⟨fun hbad => exec_of_fail (invxsCommand_arg hbad), fun hk hkw hs => ?_⟩⟩
  obtain ⟨m, ⟨hreach, hleast⟩, hok⟩ := invxsCommand_inverse hk hkw (BitVec.toNat_pos_of_ne_zero hs)
  exact ⟨m, hreach, hleast, exec_of_ok hok⟩

end

section
/-! Errors and completion (60_exceptions.md): which command can fail with which code (R202), the two shapes of a completion
(R200, R201), the idle KPE (R214). -/

namespace Sys2Proof.Machine

variable {s : State} {i : Instr} {e : ErrCode}

/-- The error table of R202, its column "raised by": the commands that can fail with `e`, and for LOCKED the STATE in which
they do. CMD is raised by illegal words, which are no command; over all states a walk of ITNEXT can fail too. -/
def ErrCode.RaisedBy (e : ErrCode) (i : Instr) (state : ConfigState) : Prop :=
  match e with
  | .ok | .cmd => False
  | .state => i ∈ [.arm, .encU, .encC, .decU, .decC, .itstart, .itnext] ∨
      ∃ n, i ∈ [.keywrK1 n, .keywrK2 n, .keyrdK1 n, .keyrdK2 n, .tblwr n, .tblrdFwd n, .tblrdInv n]
  | .locked => isLoadingCommand i = true ∧ state = .ready
  | .rounds => i = .cfg
  | .index => ∃ n, i ∈ [.keywrK1 n, .keywrK2 n, .keyrdK1 n, .keyrdK2 n, .tblwr n, .tblrdFwd n, .tblrdInv n]
  | .even => i ∈ [.mulwrC, .mulwrC1, .mulwrC2, .invodd]
  | .table => i = .arm
  | .domain => i ∈ [.encU, .encC, .decU, .decC, .itstart]
  | .nosuch => i = .itnext
  | .walk => i ∈ [.encU, .encC, .decU, .decC, .itnext]
  | .arg => i ∈ [.block, .invxs]

/-- A failing command stands in the error table: the lemmas of Laws/Commands.lean on failures, gathered. -/
theorem raisedBy_of_replyOf {p : Config.Params} {k : Kpe p} (h : replyOf i k = .fail e) :
    e.RaisedBy i k.status.state := by
  cases i with
  | nop | srst => cases h
  | cfg => obtain rfl := configure_fail h; rfl
  | mulwrC | mulwrC1 | mulwrC2 =>
    obtain ⟨rfl, hs⟩ | ⟨rfl, -⟩ := writeMultiplier_fail h
    · exact ⟨rfl, hs⟩
    · simp [ErrCode.RaisedBy]
  | keywrK1 | keywrK2 =>
    obtain ⟨rfl, -⟩ | ⟨rfl, hs⟩ | ⟨rfl, -⟩ := writeKey_fail h
    · simp [ErrCode.RaisedBy]
    · exact ⟨rfl, hs⟩
    · simp [ErrCode.RaisedBy]
  | keyrdK1 | keyrdK2 => obtain ⟨rfl, -⟩ | ⟨rfl, -⟩ := readKey_fail h <;> simp [ErrCode.RaisedBy]
  | tblwr =>
    obtain ⟨rfl, -⟩ | ⟨rfl, hs⟩ | ⟨rfl, -⟩ := writeTable_fail h
    · simp [ErrCode.RaisedBy]
    · exact ⟨rfl, hs⟩
    · simp [ErrCode.RaisedBy]
  | tblrdFwd | tblrdInv => obtain ⟨rfl, -⟩ | ⟨rfl, -⟩ := readTable_fail h <;> simp [ErrCode.RaisedBy]
  | arm => obtain ⟨rfl, -⟩ | ⟨rfl, -⟩ := armKpe_fail h <;> simp [ErrCode.RaisedBy]
  | encU | encC =>
    obtain ⟨rfl, -⟩ | ⟨rfl, -⟩ | ⟨rfl, -⟩ := encodeCommand_fail h <;> simp [ErrCode.RaisedBy]
  | decU | decC =>
    obtain ⟨rfl, -⟩ | ⟨rfl, -⟩ | ⟨rfl, -⟩ := decodeCommand_fail h <;> simp [ErrCode.RaisedBy]
  | itstart => obtain ⟨rfl, -⟩ | ⟨rfl, -⟩ := startIterator_fail h <;> simp [ErrCode.RaisedBy]
  | itnext => obtain ⟨rfl, -⟩ | ⟨rfl, -⟩ | ⟨rfl, -⟩ := nextElement_fail h <;> simp [ErrCode.RaisedBy]
  | block =>
    obtain ⟨-, he⟩ | ⟨-, he⟩ := blockCommand_cases k <;> cases he.symm.trans h
    simp [ErrCode.RaisedBy]
  | invodd =>
    obtain ⟨-, he⟩ | ⟨-, he⟩ := invoddCommand_cases k <;> cases he.symm.trans h
    simp [ErrCode.RaisedBy]
  | invxs =>
    obtain ⟨-, he⟩ | ⟨-, -, -, he⟩ := invxsCommand_cases k <;> cases he.symm.trans h
    simp [ErrCode.RaisedBy]

/-- What a completion reports: success, or a code the error table gives the command. -/
theorem ecode_of_exec {t : State} (h : exec i s = .next t) :
    t.kpe.status.ecode = .ok ∨ t.kpe.status.ecode.RaisedBy i s.kpe.status.state := by
  obtain ⟨_, -, rfl⟩ | ⟨_, hfail, rfl⟩ := exec_next h
  · exact .inl rfl
  · exact .inr (raisedBy_of_replyOf hfail)

/-- The error codes are the numbers 1 to 11 (R202). -/
theorem ErrCode.code_bounds : e ≠ .ok → 1 ≤ e.code ∧ e.code ≤ 11 := by cases e <;> decide

theorem engineMove_idle (hb : s.kpe.status.busy = false) : engineMove s = .next s := by
  obtain ⟨-, he⟩ | ⟨-, hbusy, -⟩ := engineMove_cases s
  · exact he
  · simp [hb] at hbusy

end Sys2Proof.Machine

open Sys2Proof.Machine

/-- Settles O22: of the two completions only the failure leaves ERR = 1. -/
theorem failureChangesOnlyStatus : Obligations.FailureChangesOnlyStatus := by
  unfold Obligations.FailureChangesOnlyStatus
  intro s t i h herr
  obtain ⟨_, -, rfl⟩ | ⟨_, -, rfl⟩ := exec_next h
  · cases herr
  · rfl

/-- Settles O23: the two completions, of which a failure has a code; the model stops in READY with no variant alone. -/
theorem everyCommandCompletesOnce : Obligations.EveryCommandCompletesOnce := by
  unfold Obligations.EveryCommandCompletesOnce
  refine ⟨fun s t i h => ?_, fun s i hvs => exec_continues i hvs⟩
  obtain ⟨_, -, rfl⟩ | ⟨_, hfail, rfl⟩ := exec_next h
  · exact ⟨rfl, rfl, .inl ⟨rfl, rfl⟩⟩
  · exact ⟨rfl, rfl, .inr ⟨rfl, ErrCode.code_bounds (replyOf_fail_ne_ok hfail)⟩⟩

/-- Settles O25: the code a completion reports stands in the error table. -/
theorem errorCodesAreRaisedOnlyByTheirCommands : Obligations.ErrorCodesAreRaisedOnlyByTheirCommands := by
  unfold Obligations.ErrorCodesAreRaisedOnlyByTheirCommands
  intro s t i h
  obtain hok | hraised := ecode_of_exec h
  · simp [hok]
  · refine ⟨?_, ?_, ?_, ?_, ?_, ?_, ?_, ?_, ?_, ?_, ?_⟩ <;>
      (intro hcode; rw [hcode] at hraised; exact hraised)

/-- Settles O21: the turn is the engine's, and it has no command in flight. -/
theorem idleKpeHoldsItsState : Obligations.IdleKpeHoldsItsState := by
  unfold Obligations.IdleKpeHoldsItsState
  intro s hb
  refine ⟨fun hin => ?_, fun rest hin => ?_⟩
  · rw [step_nil hin, engineMove_idle hb]
  · rw [step_cons hin]
    exact engineMove_idle (s := { s with inputs := rest }) hb

end

section
/-! Accesses while a command is in flight (R240, R241), and the reset: its values (R231) and the input (R230). -/

namespace Sys2Proof.Machine

open Sys2Proof.Config

variable {p : Params} {k : Kpe p} {s : State} {rest : List (Event s.params.w)} {addr bytes : Nat}

/-! ### Accesses while BUSY -/

/-- A write to CMD or an operand while BUSY is dropped (R240). -/
theorem writeReg_operand_busy {r : Reg} (v : p.Word) (hb : k.status.busy = true) (hlo : 2 ≤ r.index)
    (hhi : r.index ≤ 5) : writeReg k r v = k.overrun := by
  cases r with
  | cmd | arg0 | arg1 | arg2 => exact if_pos hb
  | _ => simp [Reg.index] at hlo hhi

/-- `k` with its sticky bits at `o` and `b`. -/
def Kpe.withSticky (k : Kpe p) (o b : Bool) : Kpe p := { k with status := { k.status with ovr := o, buserr := b } }

/-- While BUSY no write of a register reaches more than the sticky bits. -/
theorem writeReg_busy (hb : k.status.busy = true) (r : Reg) (v : p.Word) : ∃ o b, writeReg k r v = k.withSticky o b := by
  obtain he | he | ⟨-, he⟩ | ⟨hidle, -⟩ := writeReg_cases k r v
  · exact ⟨_, true, he⟩
  · exact ⟨_, _, he⟩
  · exact ⟨true, _, he⟩
  · simp [hb] at hidle

theorem busWrite_busy (hb : s.kpe.status.busy = true) (v : s.params.Word) :
    ∃ o b, busWrite s addr bytes v = { s with kpe := s.kpe.withSticky o b } := by
  obtain he | ⟨-, he⟩ | ⟨-, r, he⟩ := busWrite_cases s addr bytes v
  · exact ⟨_, _, he⟩
  · exact ⟨_, true, he⟩
  · obtain ⟨o, b, hw⟩ := writeReg_busy hb r v
    exact ⟨o, b, by rw [he, hw]⟩

/-- A read, legal or not, changes the host's data and BUSERR at most. -/
theorem busRead_eq (s : State) (addr bytes : Nat) :
    ∃ b d, busRead s addr bytes = { s with kpe := s.kpe.withSticky s.kpe.status.ovr b, rdata := d } := by
  obtain he | ⟨d, he⟩ | ⟨-, he⟩ := busRead_cases s addr bytes
  · exact ⟨_, _, he⟩
  · exact ⟨_, d, he⟩
  · exact ⟨true, 0, he⟩

/-! ### The reset -/

theorem statusWord_reset (p : Params) : statusWord p.w Status.reset = 0 := by
  show statusWord p.width.bits Status.reset = 0
  cases p.width <;> decide

theorem cfgrWord_reset (p : Params) : cfgrWord (Kpe.reset p) = 0 := by
  simp [cfgrWord, Kpe.reset, Variant.code, fieldAt]

/-- CINV after reset: the inverse under MASK = 0 (R33). -/
theorem invOdd_zero_mask {w : Nat} (a : BitVec w) : invOdd a 0 = 0 := BitVec.and_zero

/-- The window of the KPE (R60). -/
theorem busTarget_ne_elsewhere (hlo : p.base ≤ addr) (hhi : addr < p.base + 256 * p.wordBytes) :
    busTarget p addr bytes ≠ .elsewhere := by
  simp only [busTarget, if_neg (show ¬(addr < p.base ∨ p.base + 256 * p.wordBytes ≤ addr) by omega)]
  split
  · nofun
  · split <;> nofun

/-- While the reset input is asserted a read of the KPE returns 0 (R230). -/
theorem busRead_held (hr : s.rst = true) (ht : busTarget s.params addr bytes ≠ .elsewhere) :
    busRead s addr bytes = { s with rdata := 0 } := by
  unfold busRead
  split
  · exact absurd ‹_› ht
  · exact if_pos hr
  · exact if_pos hr

theorem busWrite_held (hr : s.rst = true) (v : s.params.Word) : busWrite s addr bytes v = s := by
  obtain he | ⟨hn, -⟩ | ⟨hn, -⟩ := busWrite_cases s addr bytes v
  · exact he
  · simp [hr] at hn
  · simp [hr] at hn

theorem engineMove_held (hr : s.rst = true) : engineMove s = .next s := if_pos hr

end Sys2Proof.Machine

open Sys2Proof.Config Sys2Proof.Machine

/-- Settles O12: the indices 2 to 5 are those of CMD and the operands, and STATUS has no test of BUSY. -/
theorem busyWriteIsDroppedAndSetsOvr : Obligations.BusyWriteIsDroppedAndSetsOvr := by
  unfold Obligations.BusyWriteIsDroppedAndSetsOvr
  refine fun s rest idx v hr hb hin => ⟨fun hlo hhi => ?_, ?_⟩
  · obtain ⟨r, rfl⟩ := Reg.exists_index_eq (show idx ≤ 0x15 by omega)
    rw [step_writeReg r v hr hin, writeReg_operand_busy v hb hlo hhi]
    rfl
  · rintro rfl
    exact ⟨_, step_writeReg .status v hr hin, rfl⟩

/-- Settles O17: a read reaches BUSERR alone, a write no more than OVR and BUSERR. -/
theorem accessesWhileBusyChangeOnlyStickyBits : Obligations.AccessesWhileBusyChangeOnlyStickyBits := by
  unfold Obligations.AccessesWhileBusyChangeOnlyStickyBits
  refine fun s rest hb => ⟨fun t addr bytes hin h => ?_, fun r hr hin => step_readReg r hr hin,
    fun t addr bytes v hin h => ?_⟩
  · cases (step_cons hin).symm.trans h
    exact busRead_eq { s with inputs := rest } addr bytes
  · cases (step_cons hin).symm.trans h
    exact busWrite_busy (s := { s with inputs := rest }) hb v

/-- Settles O18: the registers by definition; the words, CINV and the RAM entries by value. -/
theorem resetLeavesTheResetValues : Obligations.ResetLeavesTheResetValues := by
  unfold Obligations.ResetLeavesTheResetValues
  exact ⟨fun p => ⟨statusWord_reset p, rfl, rfl, rfl, rfl, rfl, rfl, rfl, rfl, rfl, cfgrWord_reset p, rfl, rfl, rfl, rfl,
    rfl, invOdd_zero_mask _, rfl, fun i hi => ⟨ramGet_replicate 0 hi, ramGet_replicate 0 hi⟩,
    fun i hi => ⟨ramGet_replicate 0 hi, ramGet_replicate 0 hi⟩⟩, by decide, by decide, by decide, by decide, rfl⟩

/-- Settles O20: by what arrives; nothing arriving is the engine's turn. -/
theorem resetInputIgnoresTheBusAndResets : Obligations.ResetInputIgnoresTheBusAndResets := by
  unfold Obligations.ResetInputIgnoresTheBusAndResets
  refine fun s rest => ⟨fun hin => ⟨Kpe.reset s.params, step_cons hin⟩, fun hr => ⟨fun addr bytes hin hlo hhi => ?_,
    fun addr bytes v hin => ?_, fun hin => ?_, fun hin => ?_, fun hin => ?_⟩⟩
  · rw [step_cons hin, handle, busRead_held (s := { s with inputs := rest }) hr (busTarget_ne_elsewhere hlo hhi)]
  · rw [step_cons hin, handle, busWrite_held (s := { s with inputs := rest }) hr v]
  · rw [step_cons hin, handle, engineMove_held (s := { s with inputs := rest }) hr]
  · rw [step_nil hin, engineMove_held hr]
  · rw [step_cons hin]
    exact if_pos hr

/-- Settles O58: the reset input is released, and the reset values meet the KPE's invariant. -/
theorem resetMeetsTheInvariant : Obligations.ResetMeetsTheInvariant := by
  unfold Obligations.ResetMeetsTheInvariant
  have hreset (p : Params) (hp : p.Wf) : (State.resetOf p).Inv := ⟨hp, reset_inv hp, nofun⟩
  exact ⟨hreset, hreset reference64 (by constructor <;> decide), by constructor <;> decide⟩

end

section
/-! The bit-math units on k-bit words (R186 of 42_math.md): the Newton inverse under the masks 2^k - 1,
the xor-shift inverse. -/

namespace Sys2Proof.Machine

/-! ### k-bit words -/

/-- The k-bit words: those below 2^k. -/
def kbitWords (w k : Nat) : Set (BitVec w) := {x | x.toNat < 2 ^ k}

section KbitWords

variable {w k : Nat} {x y : BitVec w}

theorem and_maskOf_of_mem (hk : k ≤ w) (hx : x ∈ kbitWords w k) : x &&& maskOf w k = x := by
  apply BitVec.eq_of_toNat_eq
  rw [and_maskOf_toNat x hk, Nat.mod_eq_of_lt hx]

variable (hk : k ≤ w)
include hk

theorem and_maskOf_mem (x : BitVec w) : x &&& maskOf w k ∈ kbitWords w k := by
  show (x &&& maskOf w k).toNat < 2 ^ k
  rw [and_maskOf_toNat x hk]
  exact Nat.mod_lt _ (Nat.two_pow_pos k)

/-- The mask keeps the word modulo 2^k, so arithmetic under a mask is arithmetic of k-bit vectors. -/
theorem and_maskOf_eq_iff : x &&& maskOf w k = y &&& maskOf w k ↔ x.setWidth k = y.setWidth k := by
  simp only [← BitVec.toNat_inj, and_maskOf_toNat _ hk, BitVec.toNat_setWidth]

theorem eq_of_setWidth_eq (hx : x ∈ kbitWords w k) (hy : y ∈ kbitWords w k) (h : x.setWidth k = y.setWidth k) :
    x = y := by
  rwa [← and_maskOf_eq_iff hk, and_maskOf_of_mem hk hx, and_maskOf_of_mem hk hy] at h

theorem setWidth_and_maskOf (x : BitVec w) : (x &&& maskOf w k).setWidth k = x.setWidth k :=
  (and_maskOf_eq_iff hk).mp (by rw [BitVec.and_assoc, BitVec.and_self])

theorem setWidth_sub_of_le (x y : BitVec w) : (x - y).setWidth k = x.setWidth k - y.setWidth k := by
  rw [BitVec.sub_eq_add_neg, BitVec.setWidth_add _ _ hk, BitVec.setWidth_neg_of_le hk, ← BitVec.sub_eq_add_neg]

end KbitWords

/-- `g` inverts `f` on `D`, on both sides, and neither leaves `D`. -/
structure InverseOn {α : Type} (D : Set α) (f g : α → α) : Prop where
  mapsTo : Set.MapsTo f D D
  mapsTo_inv : Set.MapsTo g D D
  left_inv : Set.LeftInvOn g f D
  right_inv : Set.LeftInvOn f g D

namespace InverseOn

variable {α : Type} {D : Set α} {f g f' g' : α → α}

theorem refl (D : Set α) : InverseOn D id id := ⟨Set.mapsTo_id D, Set.mapsTo_id D, fun _ _ => rfl, fun _ _ => rfl⟩

theorem symm (h : InverseOn D f g) : InverseOn D g f := ⟨h.mapsTo_inv, h.mapsTo, h.right_inv, h.left_inv⟩

theorem comp (h' : InverseOn D f' g') (h : InverseOn D f g) : InverseOn D (f' ∘ f) (g ∘ g') where
  mapsTo := h'.mapsTo.comp h.mapsTo
  mapsTo_inv := h.mapsTo_inv.comp h'.mapsTo_inv
  left_inv := h.left_inv.comp h'.left_inv h.mapsTo
  right_inv := h'.right_inv.comp h.right_inv h'.mapsTo_inv

theorem iterate (h : InverseOn D f g) (n : Nat) : InverseOn D f^[n] g^[n] := by
  induction n with
  | zero => exact refl D
  | succ n ih =>
    rw [Function.iterate_succ, Function.iterate_succ']
    exact ih.comp h

end InverseOn

/-! ### `invOdd` under the masks 2^k - 1 (R186 (a)) -/

theorem mul_invOdd_and_maskOf {w k : Nat} {a : BitVec w} (hw : w ≤ 64) (hk : k ≤ w) (ha : a.getLsbD 0 = true) :
    (a * invOdd a (maskOf w k)) &&& maskOf w k = 1#w &&& maskOf w k := by
  rw [and_maskOf_eq_iff hk, invOdd, BitVec.setWidth_mul _ _ hk, setWidth_and_maskOf hk, ← BitVec.setWidth_mul _ _ hk,
    mul_newtonSteps_six hw ha]

/-! ### `invXorShift` on k-bit words (R186 (b)) -/

theorem xorShift_mapsTo (w k t : Nat) : Set.MapsTo (xorShift t) (kbitWords w k) (kbitWords w k) := by
  intro v hv
  show (v ^^^ (v >>> t)).toNat < 2 ^ k
  rw [BitVec.toNat_xor, BitVec.toNat_ushiftRight]
  exact Nat.xor_lt_two_pow hv ((Nat.shiftRight_le _ _).trans_lt hv)

/-- The turns of the loop keep to the k-bit words, so the mask of R182 takes nothing from them. -/
theorem xorShifts_mapsTo (w k t m : Nat) : Set.MapsTo (xorShifts t m) (kbitWords w k) (kbitWords w k) := by
  induction m generalizing t with
  | zero => exact Set.mapsTo_id _
  | succ m ih =>
    intro v hv
    rw [xorShifts_succ]
    exact ih _ (xorShift_mapsTo w k t hv)

/-- k turns are enough for any shift from 1 on. -/
theorem le_mul_two_pow {s : Nat} (k : Nat) (hs : 1 ≤ s) : k ≤ s * 2 ^ k :=
  Nat.lt_two_pow_self.le.trans (Nat.le_mul_of_pos_left _ hs)

/-- On k-bit words `invXorShift` is its loop: the mask takes nothing away. -/
theorem invXorShift_eq_loop {w s k : Nat} (hs : 1 ≤ s) (hk : k ≤ w) {v : BitVec w} (hv : v ∈ kbitWords w k) :
    invXorShift v s k = (xorShiftLoop k k s v 0).1 := by
  obtain ⟨m, -, heq⟩ := xorShiftLoop_eq_xorShifts k s v 0 (le_mul_two_pow k hs)
  rw [invXorShift, heq]
  exact and_maskOf_of_mem hk (xorShifts_mapsTo w k s m hv)

theorem invXorShift_inverse {w s k : Nat} (hs : 1 ≤ s) (hk : k ≤ w) :
    InverseOn (kbitWords w k) (xorShift s) (fun v => invXorShift v s k) := by
  have hloop (v : BitVec w) (hv : v ∈ kbitWords w k) : (xorShiftLoop k k s (xorShift s v) 0).1 = v :=
    xorShiftLoop_inverts k s v 0 hv (le_mul_two_pow k hs)
  refine ⟨xorShift_mapsTo w k s, fun v _ => and_maskOf_mem hk _, fun v hv => ?_, fun v hv => ?_⟩
  · exact (invXorShift_eq_loop hs hk (xorShift_mapsTo w k s hv)).trans (hloop v hv)
  · show xorShift s (invXorShift v s k) = v
    rw [invXorShift_eq_loop hs hk hv, ← xorShiftLoop_xorShift, hloop v hv]

theorem width_bits_le_64 (width : Width) : width.bits ≤ 64 := by cases width <;> decide

end Sys2Proof.Machine

open Sys2Proof.Machine

/-- Settles O45: the product modulo 2^k does not see that its factor was masked. -/
theorem invOddInvertsUnderBlockMasks : Obligations.InvOddInvertsUnderBlockMasks := by
  unfold Obligations.InvOddInvertsUnderBlockMasks
  exact fun width a k ha hk => mul_invOdd_and_maskOf (width_bits_le_64 width) hk ha

/-- Refutes O46: under the mask 10 the inverse of 3 is 10 and the product 30, whose bits under the mask are 10; those of
1 are 0 (log 13). -/
theorem not_invOddInvertsUnderEveryMask : ¬ Obligations.InvOddInvertsUnderEveryMask := by
  unfold Obligations.InvOddInvertsUnderEveryMask
  intro h
  exact absurd (h .w32 3#32 10#32) (by decide)

/-- Settles O47: the loop inverts on both sides, and no mask changes a k-bit word. -/
theorem invXorShiftInvertsTheXorShift : Obligations.InvXorShiftInvertsTheXorShift := by
  unfold Obligations.InvXorShiftInvertsTheXorShift
  intro width v s k hs _ hk hv
  have h := invXorShift_inverse (w := width.bits) hs hk
  constructor
  · exact (congrArg (invXorShift · s k) (and_maskOf_of_mem hk (h.mapsTo hv))).trans (h.left_inv hv)
  · exact (congrArg (· &&& maskOf width.bits k) (h.right_inv hv)).trans (and_maskOf_of_mem hk hv)

end

section
/-! The bounded passes are inverse to each other on the k-bit words (R140 to R143): a round is the multiply-add modulo
2^k and the self-xor-shift, each with its inverse. -/

namespace Sys2Proof.Machine

open Sys2Proof.Config

variable {p : Params} {k : Kpe p}

/-! ### One round (R140, R142) -/

/-- The linear half of the forward round: `(x * C + K1[r]) & MASK`. -/
def Kpe.mulAdd (k : Kpe p) (r : Nat) (x : p.Word) : p.Word := (x * k.c + ramGet k.k1 r) &&& k.mask

/-- The linear half of the inverse round. -/
def Kpe.subMul (k : Kpe p) (r : Nat) (x : p.Word) : p.Word := (((x - ramGet k.k1 r) &&& k.mask) * k.cinv) &&& k.mask

theorem roundF_eq_comp (k : Kpe p) (r : Nat) : (roundF k · r) = xorShift k.rshift.toNat ∘ k.mulAdd r := rfl

theorem roundG_eq_comp (k : Kpe p) (r : Nat) :
    (roundG k · r) = k.subMul r ∘ (invXorShift · k.rshift.toNat k.kbits.toNat) := rfl

section Bounded

variable (h : k.BoundedConfig)
include h

/-- CINV is the inverse of C modulo 2^k (R33). -/
theorem Kpe.BoundedConfig.c_mul_cinv :
    k.c.setWidth k.kbits.toNat * k.cinv.setWidth k.kbits.toNat = 1#k.kbits.toNat := by
  have hinv := mul_invOdd_and_maskOf (w_le_64 p) h.kbitsLe h.cOdd
  rw [← h.maskEq, ← h.cinvEq, h.maskEq, and_maskOf_eq_iff h.kbitsLe, BitVec.setWidth_mul _ _ h.kbitsLe] at hinv
  rw [hinv, BitVec.setWidth_ofNat_of_le h.kbitsLe]

theorem Kpe.BoundedConfig.and_mask_mem (x : p.Word) : x &&& k.mask ∈ kbitWords p.w k.kbits.toNat :=
  h.maskEq ▸ and_maskOf_mem h.kbitsLe x

theorem Kpe.BoundedConfig.setWidth_and_mask (x : p.Word) :
    (x &&& k.mask).setWidth k.kbits.toNat = x.setWidth k.kbits.toNat :=
  h.maskEq ▸ setWidth_and_maskOf h.kbitsLe x

theorem Kpe.BoundedConfig.setWidth_mulAdd (r : Nat) (x : p.Word) :
    (k.mulAdd r x).setWidth k.kbits.toNat =
      x.setWidth _ * k.c.setWidth _ + (ramGet k.k1 r).setWidth k.kbits.toNat := by
  rw [Kpe.mulAdd, h.setWidth_and_mask, BitVec.setWidth_add _ _ h.kbitsLe, BitVec.setWidth_mul _ _ h.kbitsLe]

theorem Kpe.BoundedConfig.setWidth_subMul (r : Nat) (x : p.Word) :
    (k.subMul r x).setWidth k.kbits.toNat =
      (x.setWidth _ - (ramGet k.k1 r).setWidth _) * k.cinv.setWidth k.kbits.toNat := by
  rw [Kpe.subMul, h.setWidth_and_mask, BitVec.setWidth_mul _ _ h.kbitsLe, h.setWidth_and_mask,
    setWidth_sub_of_le h.kbitsLe]

theorem Kpe.BoundedConfig.mulAdd_inverse (r : Nat) :
    InverseOn (kbitWords p.w k.kbits.toNat) (k.mulAdd r) (k.subMul r) where
  mapsTo _ _ := h.and_mask_mem _
  mapsTo_inv _ _ := h.and_mask_mem _
  left_inv x hx := by
    refine eq_of_setWidth_eq h.kbitsLe (h.and_mask_mem _) hx ?_
    rw [h.setWidth_subMul, h.setWidth_mulAdd, BitVec.add_sub_cancel, BitVec.mul_assoc, h.c_mul_cinv, BitVec.mul_one]
  right_inv x hx := by
    refine eq_of_setWidth_eq h.kbitsLe (h.and_mask_mem _) hx ?_
    rw [h.setWidth_mulAdd, h.setWidth_subMul, BitVec.mul_assoc, BitVec.mul_comm (k.cinv.setWidth _), h.c_mul_cinv,
      BitVec.mul_one, BitVec.sub_add_cancel]

theorem Kpe.BoundedConfig.round_inverse (r : Nat) :
    InverseOn (kbitWords p.w k.kbits.toNat) (roundF k · r) (roundG k · r) := by
  rw [roundF_eq_comp, roundG_eq_comp]
  exact (invXorShift_inverse h.rshiftPos h.kbitsLe).comp (h.mulAdd_inverse r)

/-! ### The passes (R141, R143) -/

theorem Kpe.BoundedConfig.rounds_inverse (n : Nat) :
    InverseOn (kbitWords p.w k.kbits.toNat) (fwdRounds k n) (invRounds k n) := by
  induction n with
  | zero => exact .refl _
  | succ n ih => exact (h.round_inverse n).comp ih

theorem Kpe.BoundedConfig.pass_inverse : InverseOn (kbitWords p.w k.kbits.toNat) (passFwd k) (passInv k) :=
  h.rounds_inverse k.rounds.toNat

end Bounded

end Sys2Proof.Machine

open Sys2Proof.Machine

/-- Settles O49: both halves of the round are inverted on both sides. -/
theorem boundedInverseRoundIsExact : Obligations.BoundedInverseRoundIsExact := by
  unfold Obligations.BoundedInverseRoundIsExact
  exact fun p k x r h hx => ⟨(h.round_inverse r).left_inv hx, (h.round_inverse r).right_inv hx⟩

end

section
/-! What READY guarantees of the configured variant (R38 of 10_state.md). -/

namespace Sys2Proof.Machine

open Sys2Proof.Config

theorem odd_toNat_iff {w : Nat} {a : BitVec w} : a.getLsbD 0 = true ↔ a.toNat % 2 = 1 := by
  simp [BitVec.getLsbD, Nat.testBit_zero]

/-- The selector gives BoundedHalf for the sizes above 16 alone, and N is the size word. -/
theorem classify_eq_bhalf {w : Nat} {v n : BitVec w} (h : classify v = (.bhalf, n)) : 16 < v.toInt ∧ n = v := by
  unfold classify at h
  split_ifs at h with h1 h2 h3 <;> cases h
  exact ⟨not_le.mp h3, rfl⟩

/-- N of a bounded domain lies above the sizes of a Table (R101). -/
theorem lt_toNat_of_classify_bounded (width : Width) {v n : BitVec width.bits} {var : Variant}
    (h : classify v = (var, n)) (hv : var = .bhalf ∨ var = .bfull) : 16 < n.toNat := by
  obtain rfl | rfl := hv
  · obtain ⟨hgt, rfl⟩ := classify_eq_bhalf h
    have := (toNat_of_toInt_nonneg width (v := n) (by omega)).1
    omega
  · obtain ⟨hlt, rfl⟩ := classify_eq_bfull h
    have hlow := (toNat_of_toInt_lt_neg_one width hlt).1
    have hfits : 16 < 2 ^ (width.bits - 1) := by cases width <;> decide
    omega

theorem derived_bounded {w : Nat} {var : Variant} (n : BitVec w) (hv : var = .bhalf ∨ var = .bfull) :
    derived var n = block n := by
  obtain rfl | rfl := hv <;> rfl

section Bounded

variable {p : Params} {k : Kpe p} (h : k.Inv) (hv : k.variant = .bhalf ∨ k.variant = .bfull)
include h hv

/-- What CFG left of a bounded domain: the parameters `block` gives N, which is above 16 (R101, R103). -/
theorem Kpe.Inv.bounded_registers :
    16 < k.nreg.toNat ∧ k.mask = maskOf p.w (block k.nreg).kbits ∧ k.kbits.toNat = (block k.nreg).kbits ∧
      k.rshift.toNat = 3 * (block k.nreg).kbits / 7 := by
  have hne : k.variant ≠ .none := by rintro hn; simp [hn] at hv
  obtain ⟨hclass, hmask, hkbits, hrshift⟩ := h.domain.configured hne
  rw [derived_bounded _ hv] at hmask hkbits hrshift
  refine ⟨lt_toNat_of_classify_bounded p.width hclass hv, hmask, ?_, ?_⟩
  · rw [hkbits, toNat_cfgrField (block_kbits_le _)]
  · rw [hrshift, toNat_cfgrField (block_rshift_le _)]
    rfl

/-- N needs exactly KBITS bits, at least 5 (R38 (1)). -/
theorem Kpe.Inv.bounded_size :
    2 ^ (k.kbits.toNat - 1) < k.nreg.toNat ∧ k.nreg.toNat ≤ 2 ^ k.kbits.toNat ∧ 5 ≤ k.kbits.toNat ∧
      k.kbits.toNat ≤ p.w := by
  obtain ⟨hn, -, hkbits, -⟩ := h.bounded_registers hv
  obtain ⟨-, hlow, hhigh⟩ := block_kbits_bounds (n := k.nreg) (by have := width_cases p; omega)
  rw [← hkbits, max_eq_left (by omega)] at hlow hhigh
  refine ⟨hlow, hhigh, ?_, hkbits ▸ block_kbits_le _⟩
  have hexp : 4 < k.kbits.toNat := (Nat.pow_lt_pow_iff_right one_lt_two).mp (hn.trans_le hhigh)
  omega

theorem Kpe.Inv.boundedConfig : k.BoundedConfig := by
  obtain ⟨-, hmask, hkbits, hrshift⟩ := h.bounded_registers hv
  obtain ⟨-, -, hpos, hle⟩ := h.bounded_size hv
  exact ⟨by omega, hle, hkbits ▸ hmask, by omega, h.multipliers.cOdd, h.multipliers.cinvEq⟩

end Bounded

/-- CINV is the inverse of C modulo 2^k, as numbers (R38 (1)). -/
theorem Kpe.BoundedConfig.c_mul_cinv_mod {p : Params} {k : Kpe p} (h : k.BoundedConfig) :
    (k.c.toNat * k.cinv.toNat) % 2 ^ k.kbits.toNat = 1 := by
  have hone := congrArg BitVec.toNat h.c_mul_cinv
  rw [BitVec.toNat_mul, BitVec.toNat_setWidth, BitVec.toNat_setWidth, ← Nat.mul_mod,
    BitVec.toNat_one (by have := h.kbitsPos; omega)] at hone
  exact hone

end Sys2Proof.Machine

open Sys2Proof.Machine

/-- Settles O55: N is above 16 on a bounded domain, so KBITS is at least 5 and the shift at least 2; the rest is the
invariant with the inverses as numbers. -/
theorem readyConfigurationIsSound : Obligations.ReadyConfigurationIsSound := by
  unfold Obligations.ReadyConfigurationIsSound
  intro s hinv hs
  have h := hinv.kpe
  have hrounds := h.domain.mixRounds (h.variant_ne_none hs)
  refine ⟨fun hv => ?_, fun hv => ?_, fun hv => ?_⟩
  · obtain ⟨-, -, hkbits, hrshift⟩ := h.bounded_registers hv
    obtain ⟨hlow, hhigh, hfive, hle⟩ := h.bounded_size hv
    have hc := h.boundedConfig hv
    obtain ⟨hr1, hr2⟩ := hrounds (by obtain hv | hv := hv <;> simp [hv])
    exact ⟨hc.maskEq ▸ maskOf_toNat hle, hlow, hhigh, by omega, by omega, odd_toNat_iff.mp hc.cOdd, hc.c_mul_cinv_mod,
      hr1, hr2⟩
  · obtain ⟨hr1, hr2⟩ := hrounds (by simp [hv])
    have hm := h.multipliers
    have hw := w_le_64 s.params
    exact ⟨odd_toNat_iff.mp hm.c1Odd, odd_toNat_iff.mp hm.c2Odd, hm.c1invEq ▸ mul_invOdd_ones hw hm.c1Odd,
      hm.c2invEq ▸ mul_invOdd_ones hw hm.c2Odd, hr1, hr2⟩
  · have ht := h.table hs hv
    exact ⟨fun y hy => ht.surjective hy, fun i hi => ⟨ht.inRange i hi, ht.inverse i hi⟩⟩

end

section
/-! When the walk fails and what undoes it (R144, R152, R154 of 41_engine.md): a pass permutes the k-bit words, so a
start's passes run around a cycle, which the limit is long enough to search. -/

namespace Sys2Proof.Machine

open Sys2Proof.Config

/-! ### Cycles -/

/-- Two equal iterates make all later ones repeat. -/
theorem iterate_of_repeat {α : Type} {f : α → α} {x : α} {i m j : Nat} (h : f^[i] x = f^[m] x) (hj : m ≤ j) :
    f^[j] x = f^[j - m + i] x := by
  rw [Function.iterate_add_apply, h, ← Function.iterate_add_apply, Nat.sub_add_cancel hj]

/-- On a finite type the iterates of an inverted map come back to their start. -/
theorem InverseOn.exists_return {α : Type} [Finite α] {D : Set α} {f g : α → α} (h : InverseOn D f g) {x : α}
    (hx : x ∈ D) : ∃ n, 0 < n ∧ f^[n] x = x := by
  obtain ⟨i, m, hne, heq⟩ := Finite.exists_ne_map_eq_of_infinite fun n => f^[n] x
  wlog hlt : i < m generalizing i m
  · exact this m i hne.symm heq.symm (by omega)
  have hadd : f^[i] (f^[m - i] x) = f^[i] x := by rw [← Function.iterate_add_apply, Nat.add_sub_cancel' hlt.le, ← heq]
  exact ⟨m - i, by omega, (h.iterate i).left_inv.injOn ((h.iterate (m - i)).mapsTo hx) hx hadd⟩

section Walk

variable {p : Params} {k : Kpe p} {f g : p.Word → p.Word} {x : p.Word}

theorem mem_kbitWords_of_lt (hn : k.nreg.toNat ≤ 2 ^ k.kbits.toNat) (hx : x < k.nreg) :
    x ∈ kbitWords p.w k.kbits.toNat :=
  (BitVec.lt_def.mp hx).trans_le hn

/-- On the domain `x & MASK` is `x`. -/
theorem Kpe.BoundedConfig.and_mask_of_lt (hc : k.BoundedConfig) (hn : k.nreg.toNat ≤ 2 ^ k.kbits.toNat)
    (hx : x < k.nreg) : x &&& k.mask = x :=
  hc.maskEq ▸ and_maskOf_of_mem hc.kbitsLe (mem_kbitWords_of_lt hn hx)

variable (hc : k.BoundedConfig) (hn : k.nreg.toNat ≤ 2 ^ k.kbits.toNat)
  (hf : InverseOn (kbitWords p.w k.kbits.toNat) f g)
include hf

/-- The passes up to the limit are one more than the k-bit words from N on, so two of them agree or one is below N. -/
theorem exists_repeat_of_outside (hx : x ∈ kbitWords p.w k.kbits.toNat)
    (hout : ∀ j, 1 ≤ j → j ≤ walkLimit k → ¬ f^[j] x < k.nreg) :
    ∃ i m, 1 ≤ i ∧ i < m ∧ m ≤ walkLimit k ∧ f^[i] x = f^[m] x := by
  have hmaps : ∀ j ∈ Finset.Icc 1 (walkLimit k),
      (f^[j] x).toNat ∈ Finset.Ico k.nreg.toNat (2 ^ k.kbits.toNat) := by
    intro j hj
    obtain ⟨hj1, hj2⟩ := Finset.mem_Icc.mp hj
    exact Finset.mem_Ico.mpr ⟨BitVec.not_lt.mp (hout j hj1 hj2), (hf.iterate j).mapsTo hx⟩
  have hcard : (Finset.Ico k.nreg.toNat (2 ^ k.kbits.toNat)).card < (Finset.Icc 1 (walkLimit k)).card := by
    rw [Nat.card_Ico, Nat.card_Icc, walkLimit]
    omega
  obtain ⟨i, hi, m, hm, hne, heq⟩ := Finset.exists_ne_map_eq_of_card_lt_of_maps_to hcard hmaps
  have heq' := BitVec.eq_of_toNat_eq heq
  rw [Finset.mem_Icc] at hi hm
  obtain hlt | hlt := Nat.lt_or_gt_of_ne hne
  · exact ⟨i, m, hi.1, hlt, hm.2, heq'⟩
  · exact ⟨m, i, hm.1, hlt, hi.2, heq'.symm⟩

/-- If no pass up to the limit is below N, none ever is. -/
theorem outside_of_limit (hx : x ∈ kbitWords p.w k.kbits.toNat)
    (hout : ∀ j, 1 ≤ j → j ≤ walkLimit k → ¬ f^[j] x < k.nreg) (j : Nat) (hj : 1 ≤ j) : ¬ f^[j] x < k.nreg := by
  obtain ⟨i, m, hi, him, hm, heq⟩ := exists_repeat_of_outside hf hx hout
  induction j using Nat.strong_induction_on with
  | _ j ih =>
    obtain hgt | hle := Nat.lt_or_ge (walkLimit k) j
    · rw [iterate_of_repeat heq (by omega)]
      exact ih _ (by omega) (by omega)
    · exact hout j hj hle

include hc

/-- R154: the walk fails exactly when the cycle of its start lies wholly outside [0, N). -/
theorem walk_eq_none_iff_cycle : walk k f x = none ↔ ∀ j, ¬ f^[j] (x &&& k.mask) < k.nreg := by
  rw [walk_eq_none_iff]
  have hx := hc.and_mask_mem x
  refine ⟨fun hout j => ?_, fun hout j _ _ => hout j⟩
  cases j with
  | succ j => exact outside_of_limit hf hx hout _ (by omega)
  | zero =>
    obtain ⟨n, hpos, hreturn⟩ := hf.exists_return hx
    have hlater := outside_of_limit hf hx hout n hpos
    rwa [hreturn] at hlater

include hn

/-- A start in the domain is on a cycle that meets it. -/
theorem walk_ne_none_of_lt (hx : x < k.nreg) : walk k f x ≠ none := by
  intro hnone
  refine (walk_eq_none_iff_cycle hc hf).mp hnone 0 ?_
  rwa [hc.and_mask_of_lt hn hx]

/-- The walk of the inverse retraces the walk: back over the passes outside [0, N) to the start (R152). -/
theorem walk_inverse {y : p.Word} {n : Nat} (hx : x < k.nreg) (hwalk : walk k f x = some (y, n)) :
    y < k.nreg ∧ walk k g y = some (x, n) := by
  obtain ⟨hn1, hlimit, hy, hlt, hfirst⟩ := walk_eq_some_iff.mp hwalk
  rw [hc.and_mask_of_lt hn hx] at hy hfirst
  have hxmem := mem_kbitWords_of_lt hn hx
  have hback (j : Nat) (hj : j ≤ n) : g^[j] y = f^[n - j] x := by
    rw [hy, ← Nat.add_sub_cancel' hj, Function.iterate_add_apply, Nat.add_sub_cancel_left]
    exact (hf.iterate j).left_inv ((hf.iterate (n - j)).mapsTo hxmem)
  refine ⟨hlt, walk_eq_some_iff.mpr ?_⟩
  rw [hc.and_mask_of_lt hn hlt]
  refine ⟨hn1, hlimit, ?_, hx, fun j hj1 hjn => ?_⟩
  · rw [hback n le_rfl, Nat.sub_self]
    rfl
  · rw [hback j hjn.le]
    exact hfirst _ (by omega) (by omega)

end Walk

/-! ### WALK under the invariant (R154) -/

section Inv

variable {p : Params} {k : Kpe p} {x : p.Word}

theorem Kpe.inDomain.lt_nreg (hx : k.inDomain x) (hv : k.variant ≠ .fullw) : x < k.nreg := hx.resolve_left hv

theorem variant_ne_fullw_of_bounded (hv : k.variant = .bhalf ∨ k.variant = .bfull) : k.variant ≠ .fullw := by
  obtain hv | hv := hv <;> simp [hv]

/-- A checked command lets through the domain alone (R148, R149). -/
theorem inDomain_of_checked (hne : k.variant ≠ .none) (h : k.outOfDomain true x = false) : k.inDomain x := by
  rw [← Bool.not_eq_true, outOfDomain_iff, not_and_or, not_not] at h
  obtain hlt | hfree := h
  · exact .inr hlt
  · refine .inl ?_
    cases hv : k.variant <;> simp [hv] at hne hfree ⊢

variable (h : k.Inv) (hx : k.inDomain x)
include h hx

/-- From the domain neither walk fails. -/
theorem Kpe.Inv.walk_ne_none (hv : k.variant = .bhalf ∨ k.variant = .bfull) :
    walk k (passFwd k) x ≠ none ∧ walk k (passInv k) x ≠ none := by
  have hc := h.boundedConfig hv
  obtain ⟨-, hn, -, -⟩ := h.bounded_size hv
  have hlt := hx.lt_nreg (variant_ne_fullw_of_bounded hv)
  exact ⟨walk_ne_none_of_lt hc hn hc.pass_inverse hlt, walk_ne_none_of_lt hc hn hc.pass_inverse.symm hlt⟩

theorem Kpe.Inv.permute_ne_walk : permute k x ≠ .fail .walk := by
  intro hfail
  obtain ⟨-, hnone, hv⟩ := permute_fail hfail
  exact (h.walk_ne_none hx hv).1 hnone

theorem Kpe.Inv.unpermute_ne_walk : unpermute k x ≠ .fail .walk := by
  intro hfail
  obtain ⟨-, hnone, hv⟩ := unpermute_fail hfail
  exact (h.walk_ne_none hx hv).2 hnone

end Inv

/-- Under the invariant a checked ENC or DEC and ITNEXT do not fail with WALK: what they walk from is in the domain. -/
theorem Kpe.Inv.replyOf_ne_walk {p : Params} {k : Kpe p} (h : k.Inv) {i : Instr} (hi : i ∈ [.encC, .decC, .itnext]) :
    replyOf i k ≠ .fail .walk := by
  intro hfail
  simp only [List.mem_cons, List.not_mem_nil, or_false] at hi
  obtain rfl | rfl | rfl := hi
  · obtain ⟨hcode, -⟩ | ⟨hcode, -⟩ | ⟨-, hs, hchk, hwalk⟩ := encodeCommand_fail hfail
    · cases hcode
    · cases hcode
    · exact h.permute_ne_walk (inDomain_of_checked (h.variant_ne_none hs) hchk) hwalk
  · obtain ⟨hcode, -⟩ | ⟨hcode, -⟩ | ⟨-, hs, hchk, hwalk⟩ := decodeCommand_fail hfail
    · cases hcode
    · cases hcode
    · exact h.unpermute_ne_walk (inDomain_of_checked (h.variant_ne_none hs) hchk) hwalk
  · obtain ⟨hcode, -⟩ | ⟨hcode, -⟩ | ⟨-, -, hitv, hwalk⟩ := nextElement_fail hfail
    · cases hcode
    · cases hcode
    · exact h.permute_ne_walk (or_iff_not_imp_left.mpr fun hv => (h.iterator.finite hv).2 hitv) hwalk

end Sys2Proof.Machine

open Sys2Proof.Machine

/-- Settles O54: the passes of ENC and DEC are inverse to each other, so both run around cycles. -/
theorem walkFailsExactlyOnCyclesOutsideTheDomain : Obligations.WalkFailsExactlyOnCyclesOutsideTheDomain := by
  unfold Obligations.WalkFailsExactlyOnCyclesOutsideTheDomain
  refine ⟨fun s x hinv _ hv => ?_, fun s t i hinv hi hexec hcode => ?_⟩
  · have hc := hinv.kpe.boundedConfig hv
    exact ⟨walk_eq_none_iff_cycle hc hc.pass_inverse, walk_eq_none_iff_cycle hc hc.pass_inverse.symm⟩
  · obtain ⟨_, -, rfl⟩ | ⟨_, hfail, rfl⟩ := exec_next hexec
    · cases hcode
    · obtain rfl : _ = ErrCode.walk := hcode
      exact hinv.kpe.replyOf_ne_walk hi hfail

end

section
/-! ENC and DEC undo each other on the domain (R152 of 41_engine.md): the datapath by VARIANT, then the commands. -/

namespace Sys2Proof.Machine

open Sys2Proof.Config

section Datapath

variable {p : Params} {k : Kpe p} {x : p.Word}

/-- `there` answers `x` with a value of the domain, and `back` answers that value with `x` and the same count of
passes. -/
def Kpe.RoundTrip (k : Kpe p) (there back : p.Word → Reply (p.Word × p.Word)) (x : p.Word) : Prop :=
  ∃ y n, there x = .ok (y, n) ∧ k.inDomain y ∧ back y = .ok (x, n)

/-! ### The datapath by VARIANT -/

theorem roundTrip_fullw {f g : p.Word → p.Word} {there back : p.Word → Reply (p.Word × p.Word)}
    (hv : k.variant = .fullw) (hthere : ∀ x, there x = .ok (f x, 1)) (hback : ∀ x, back x = .ok (g x, 1))
    (hinv : g (f x) = x) : k.RoundTrip there back x :=
  ⟨f x, 1, hthere x, .inl hv, by rw [hback, hinv]⟩

theorem roundTrip_bounded {f g : p.Word → p.Word} {there back : p.Word → Reply (p.Word × p.Word)} (hc : k.BoundedConfig)
    (hn : k.nreg.toNat ≤ 2 ^ k.kbits.toNat) (hf : InverseOn (kbitWords p.w k.kbits.toNat) f g) (hx : x < k.nreg)
    (hthere : ∀ x, there x = walkReply p.w (walk k f x)) (hback : ∀ x, back x = walkReply p.w (walk k g x)) :
    k.RoundTrip there back x := by
  obtain ⟨⟨y, n⟩, hwalk⟩ := Option.ne_none_iff_exists'.mp (walk_ne_none_of_lt hc hn hf hx)
  obtain ⟨hy, hretrace⟩ := walk_inverse hc hn hf hx hwalk
  exact ⟨y, BitVec.ofNat p.w n, by rw [hthere, hwalk, walkReply], .inr hy, by rw [hback, hretrace, walkReply]⟩

/-- INV holds the index of each entry of FWD, and FWD has an entry for each value below N. -/
theorem Kpe.TableInv.roundTrip (ht : k.TableInv) (hv : k.variant = .table) (hx : x < k.nreg) :
    k.RoundTrip (permute k) (unpermute k) x ∧ k.RoundTrip (unpermute k) (permute k) x := by
  constructor
  · refine ⟨ramGet k.fwd x.toNat, 0, permute_table hv, .inr (ht.inRange _ hx), ?_⟩
    rw [unpermute_table hv, ht.inverse _ hx, BitVec.ofNat_toNat, BitVec.setWidth_eq]
  · obtain ⟨i, hi, hentry⟩ := ht.surjective hx
    have hinv : ramGet k.inv x.toNat = BitVec.ofNat p.w i := hentry ▸ ht.inverse i hi
    have hidx : (BitVec.ofNat p.w i).toNat = i := by
      rw [BitVec.toNat_ofNat, Nat.mod_eq_of_lt (hi.trans k.nreg.isLt)]
    refine ⟨BitVec.ofNat p.w i, 0, by rw [unpermute_table hv, hinv], .inr (BitVec.lt_def.mpr (hidx.symm ▸ hi)), ?_⟩
    rw [permute_table hv, hidx, BitVec.eq_of_toNat_eq hentry]

theorem Kpe.Inv.roundTrip (hp : p.Wf) (h : k.Inv) (hs : k.status.state = .ready) (hx : k.inDomain x) :
    k.RoundTrip (permute k) (unpermute k) x ∧ k.RoundTrip (unpermute k) (permute k) x := by
  have hbounded (hv : k.variant = .bhalf ∨ k.variant = .bfull) :
      k.RoundTrip (permute k) (unpermute k) x ∧ k.RoundTrip (unpermute k) (permute k) x := by
    have hc := h.boundedConfig hv
    obtain ⟨-, hn, -, -⟩ := h.bounded_size hv
    have hlt := hx.lt_nreg (variant_ne_fullw_of_bounded hv)
    exact ⟨roundTrip_bounded hc hn hc.pass_inverse hlt (fun _ => permute_bounded hv) (fun _ => unpermute_bounded hv),
      roundTrip_bounded hc hn hc.pass_inverse.symm hlt (fun _ => unpermute_bounded hv) (fun _ => permute_bounded hv)⟩
  cases hv : k.variant with
  | none => exact absurd hv (h.variant_ne_none hs)
  | table => exact (h.table hs hv).roundTrip hv (hx.lt_nreg (by simp [hv]))
  | bhalf => exact hbounded (.inl hv)
  | bfull => exact hbounded (.inr hv)
  | fullw =>
    obtain ⟨hdec, henc⟩ := fullWordDecodeInvertsEncode p k x hp h.multipliers
    exact ⟨roundTrip_fullw hv (fun _ => permute_fullw hv) (fun _ => unpermute_fullw hv) hdec,
      roundTrip_fullw hv (fun _ => unpermute_fullw hv) (fun _ => permute_fullw hv) henc⟩

/-! ### The commands -/

/-- `k` as a successful ENC or DEC leaves it, with its result as the next argument. -/
def Kpe.answered (k : Kpe p) (y n : p.Word) : Kpe p :=
  { (k.setResults y n 0).succeed with arg0 := y }

theorem answered_datapath (k : Kpe p) (y n : p.Word) (hy : k.inDomain y) :
    permute (k.answered y n) y = permute k y ∧ unpermute (k.answered y n) y = unpermute k y := by
  have hl : (k.answered y n).SameLoaded k :=
    ⟨rfl, rfl, rfl, rfl, rfl, fun _ _ => rfl, fun _ _ _ => rfl, fun _ _ _ => rfl⟩
  have hd : (k.answered y n).SameDerived k := ⟨rfl, rfl, rfl, rfl, rfl, rfl, rfl, rfl, fun _ _ _ => rfl⟩
  have ht : k.variant = .table → y < k.nreg := fun hv => hy.lt_nreg (by simp [hv])
  exact ⟨permute_loaded hl hd ht, unpermute_loaded hl hd ht⟩

theorem not_outOfDomain_of_inDomain {chk : Bool} (hx : k.inDomain x) : ¬ k.outOfDomain chk x = true := by
  rw [outOfDomain_iff]
  rintro ⟨hge, hv⟩
  obtain hfull | hlt := hx
  · simp [hfull] at hv
  · exact hge hlt

end Datapath

/-- On the domain CHK makes no difference. -/
theorem State.AnswersBy.exec_inDomain {s : State} {plain checked : Instr} {r : Reply (s.params.Word × s.params.Word)}
    {y n : s.params.Word} (hpair : s.AnswersBy plain checked r) (hs : s.kpe.status.state = .ready)
    (hx : s.kpe.inDomain s.kpe.arg0) (hr : r = .ok (y, n)) :
    ∀ i ∈ [plain, checked], exec i s = .next (s.completedOk (s.kpe.setResults y n 0)) := by
  intro i hi
  obtain ⟨chk, -, h⟩ := hpair i hi
  exact exec_answer_value h hs (not_outOfDomain_of_inDomain hx) hr

/-- A command, then its inverse on the result: the second returns the first's argument, with as many passes. -/
theorem exec_roundTrip {s : State} {a a' b b' : Instr}
    {there back : s.params.Word → Reply (s.params.Word × s.params.Word)}
    (hs : s.kpe.status.state = .ready) (hx : s.kpe.inDomain s.kpe.arg0)
    (hthere : s.AnswersBy a a' (there s.kpe.arg0))
    (hback : ∀ y n, s.kpe.inDomain y → State.AnswersBy { s with kpe := s.kpe.answered y n } b b' (back y))
    (htrip : s.kpe.RoundTrip there back s.kpe.arg0) {i j : Instr} (hi : i ∈ [a, a']) (hj : j ∈ [b, b']) :
    ∃ t u : Kpe s.params,
      exec i s = .next { s with kpe := t } ∧ t.status.err = false ∧ s.kpe.inDomain t.res0 ∧
      exec j { s with kpe := { t with arg0 := t.res0 } } = .next { s with kpe := u } ∧ u.status.err = false ∧
      u.res0 = s.kpe.arg0 ∧ u.res1 = t.res1 := by
  obtain ⟨y, n, hy, hin, hreturn⟩ := htrip
  exact ⟨(s.kpe.setResults y n 0).succeed, ((s.kpe.answered y n).setResults s.kpe.arg0 n 0).succeed,
    hthere.exec_inDomain hs hx hy i hi, rfl, hin, (hback y n hin).exec_inDomain hs hin hreturn j hj, rfl, rfl, rfl⟩

end Sys2Proof.Machine

open Sys2Proof.Machine

/-- Settles O53: the round trip of the datapath, which reads none of what the first command wrote. -/
theorem decodeOfEncodeIsTheArgument : Obligations.DecodeOfEncodeIsTheArgument := by
  unfold Obligations.DecodeOfEncodeIsTheArgument
  intro s x hinv hs hx i j hij
  have hk : Kpe.Inv { s.kpe with arg0 := x } := hinv.kpe.congr hinv.kpe.status rfl
  obtain ⟨henc, hdec⟩ := hk.roundTrip hinv.params hs hx
  obtain ⟨hi, hj⟩ | ⟨hi, hj⟩ := hij
  · exact exec_roundTrip (s := { s with kpe := { s.kpe with arg0 := x } }) hs hx (answersBy_enc _)
      (fun y n hy => (answered_datapath _ y n hy).2 ▸ answersBy_dec _) henc hi hj
  · exact exec_roundTrip (s := { s with kpe := { s.kpe with arg0 := x } }) hs hx (answersBy_dec _)
      (fun y n hy => (answered_datapath _ y n hy).1 ▸ answersBy_enc _) hdec hi hj

end
